-- ==== Sys2Proof/Word.lean ====
section
/-! DEFINITION. The word types of the avr-pong video block. -/

namespace Sys2Proof

/-- A host bus word and a command word (R41, R90): 16 bits. -/
abbrev Word := BitVec 16

/-- A framebuffer byte (R60): 8 bits. -/
abbrev Byte := BitVec 8

end Sys2Proof
end

