-- ==== Sys2Proof/Syntax.lean ====
section
/-! DEFINITION. The commands of the block (R95, R96), one constructor per row of the opcode table, and the
pseudo-instructions of the assembler (R102). -/

namespace Sys2Proof

/-- A command with its operands as R96 decodes them: coordinates are signed integers, the glyph index and the byte
index unsigned ones, the fill pattern eight bits. -/
inductive Instr where
  /-- `NOP` (R196) -/
  | nop
  /-- `INIT` (R200) -/
  | init
  /-- `CLEAR p` (R204) -/
  | clear (p : Byte)
  /-- `PSET x, y` (R210) -/
  | pset (x y : Int)
  /-- `PRESET x, y` (R213) -/
  | preset (x y : Int)
  /-- `PFLIP x, y` (R216) -/
  | pflip (x y : Int)
  /-- `LINE x0, y0, x1, y1` (R220) -/
  | line (x0 y0 x1 y1 : Int)
  /-- `DIGIT g, x, y` (R230) -/
  | digit (g : Nat) (x y : Int)
  /-- `PGET x, y` (R240) -/
  | pget (x y : Int)
  /-- `RDBYTE i` (R243) -/
  | rdbyte (i : Nat)
  deriving DecidableEq, Repr

/-- The assembler's pseudo-instructions (R102). -/
inductive Pseudo where
  | cls
  | plot (x y : Int)
  | hline (x0 x1 y : Int)
  | vline (x y0 y1 : Int)
  | dot (x y : Int)
  deriving DecidableEq, Repr

end Sys2Proof
end

