-- ==== Sys2Proof/WellFormed.lean ====
section
/-! DEFINITION. Which commands the encoding can hold: the assembler refuses a value outside its field's range
(R101). -/

namespace Sys2Proof

/-- A coordinate fits a 16-bit two's-complement word (R92). -/
abbrev coordOk (x : Int) : Prop := -32768 ≤ x ∧ x ≤ 32767

/-- Every operand lies in its field's range (R92, R93, R101). -/
def Instr.wf : Instr → Bool
  | .nop => true
  | .init => true
  | .clear _ => true
  | .pset x y => decide (coordOk x ∧ coordOk y)
  | .preset x y => decide (coordOk x ∧ coordOk y)
  | .pflip x y => decide (coordOk x ∧ coordOk y)
  | .line x0 y0 x1 y1 => decide ((coordOk x0 ∧ coordOk y0) ∧ coordOk x1 ∧ coordOk y1)
  | .digit g x y => decide (g ≤ 255 ∧ coordOk x ∧ coordOk y)
  | .pget x y => decide (coordOk x ∧ coordOk y)
  | .rdbyte i => decide (i ≤ 65535)

end Sys2Proof
end

