-- ==== Sys2Proof/Decode.lean ====
section
/-! DEFINITION. The command encoding (R90 to R99): header fields, lengths, legality, the decoder, the encoder and
the expansion of the pseudo-instructions. -/

namespace Sys2Proof

/-- `int16(w)` (R9): the word read as two's complement. -/
def int16 (w : Word) : Int := w.toInt

/-- The 16-bit two's-complement word of a coordinate (R92, R101). -/
def coordWord (x : Int) : Word := BitVec.ofInt 16 x

/-- `OP`, header bits 15 to 12 (R90). -/
def opField (h : Word) : Nat := (h.extractLsb' 12 4).toNat

/-- `RSV`, header bits 11 to 8 (R90). -/
def rsvField (h : Word) : BitVec 4 := h.extractLsb' 8 4

/-- `IMM8`, header bits 7 to 0 (R90). -/
def immField (h : Word) : Byte := h.extractLsb' 0 8

/-- `Len(OP)` (R91), the reserved opcodes being one word long (R97). -/
def cmdLen (op : Nat) : Nat :=
  match op with
  | 3 | 4 | 5 | 7 | 8 => 3
  | 6 => 5
  | 9 => 2
  | _ => 1

/-- The opcodes whose `IMM8` may be nonzero: CLEAR and DIGIT (R94). -/
def takesImm (op : Nat) : Bool := op == 2 || op == 7

/-- A legal header (R94). -/
def headerLegal (h : Word) : Bool :=
  decide (opField h ≤ 9) && rsvField h == 0#4 && (immField h == 0#8 || takesImm (opField h))

/-- The `match` and `mask` columns of the opcode map (R95), in its order. -/
def opcodeRows : List (Word × Word) :=
  [(0x0000, 0xFFFF), (0x1000, 0xFFFF), (0x2000, 0xFF00), (0x3000, 0xFFFF), (0x4000, 0xFFFF),
   (0x5000, 0xFFFF), (0x6000, 0xFFFF), (0x7000, 0xFF00), (0x8000, 0xFFFF), (0x9000, 0xFFFF)]

/-- Why a list of words is no command: the causes of R292, and a list that is not `Len(OP)` words long. -/
inductive DecodeError where
  /-- R292 (a): `OP` is 0xA to 0xF -/
  | reservedOpcode
  /-- R292 (b): `RSV` is not zero -/
  | reservedField
  /-- R292 (c): `IMM8` is not zero on an opcode other than CLEAR and DIGIT -/
  | strayImmediate
  /-- not `Len(OP)` words; the command assembler never hands such a list on (R262; log entry 15) -/
  | wrongLength
  deriving DecidableEq, Repr

/-- What the decoder answers. -/
inductive Decoded where
  | command (i : Instr)
  | rejected (e : DecodeError)
  deriving DecidableEq, Repr

/-- The operands of a legal header (R93, R96). -/
def decodeOperands (h : Word) (operands : List Word) : Decoded :=
  match opField h, operands with
  | 0, [] => .command .nop
  | 1, [] => .command .init
  | 2, [] => .command (.clear (immField h))
  | 3, [x, y] => .command (.pset (int16 x) (int16 y))
  | 4, [x, y] => .command (.preset (int16 x) (int16 y))
  | 5, [x, y] => .command (.pflip (int16 x) (int16 y))
  | 6, [x0, y0, x1, y1] => .command (.line (int16 x0) (int16 y0) (int16 x1) (int16 y1))
  | 7, [x, y] => .command (.digit (immField h).toNat (int16 x) (int16 y))
  | 8, [x, y] => .command (.pget (int16 x) (int16 y))
  | 9, [i] => .command (.rdbyte i.toNat)
  | _, _ => .rejected .wrongLength

/-- The decoder (R96), total on any list of words, rejecting by name (R292). -/
def decode (words : List Word) : Decoded :=
  match words with
  | [] => .rejected .wrongLength
  | h :: operands =>
    if 9 < opField h then .rejected .reservedOpcode
    else if rsvField h ≠ 0#4 then .rejected .reservedField
    else if immField h ≠ 0#8 ∧ takesImm (opField h) = false then .rejected .strayImmediate
    else decodeOperands h operands

/-- A header word of opcode `op` with immediate `imm` and `RSV = 0` (R90). -/
def header (op : BitVec 4) (imm : Byte) : Word := op ++ (0#4 ++ imm)

/-- The words of a command (R95, R101). -/
def encode : Instr → List Word
  | .nop => [header 0 0]
  | .init => [header 1 0]
  | .clear p => [header 2 p]
  | .pset x y => [header 3 0, coordWord x, coordWord y]
  | .preset x y => [header 4 0, coordWord x, coordWord y]
  | .pflip x y => [header 5 0, coordWord x, coordWord y]
  | .line x0 y0 x1 y1 => [header 6 0, coordWord x0, coordWord y0, coordWord x1, coordWord y1]
  | .digit g x y => [header 7 (BitVec.ofNat 8 g), coordWord x, coordWord y]
  | .pget x y => [header 8 0, coordWord x, coordWord y]
  | .rdbyte i => [header 9 0, BitVec.ofNat 16 i]

/-- The expansion of a pseudo-instruction (R102). -/
def expand : Pseudo → Instr
  | .cls => .clear 0
  | .plot x y => .pset x y
  | .hline x0 x1 y => .line x0 y x1 y
  | .vline x y0 y1 => .line x y0 x y1
  | .dot x y => .line x y x y

/-- Word `k` of an instruction given as one number, bit 0 the least significant bit of the first word; bits from
`nbits` on are zero. -/
def tableWordAt (nbits w k : Nat) : Word := BitVec.ofNat 16 ((w % 2 ^ nbits) / 2 ^ (16 * k))

/-- All the words of that instruction: as many as its header's opcode asks for (R91). -/
def tableWords (nbits w : Nat) : List Word :=
  (List.range (cmdLen (opField (tableWordAt nbits w 0)))).map (tableWordAt nbits w)

/-- The instruction the decoder reads from a row of the opcode table. -/
def decodeTableWord (nbits w : Nat) : Option Instr :=
  match decode (tableWords nbits w) with
  | .command i => some i
  | .rejected _ => none

end Sys2Proof
end

