-- ==== Sys2Proof/Config.lean ====
section
/-! DEFINITION. The configuration record `Cfg` of R5, its derived quantities (R6), its well-formedness (R7), what
the environment decides (whose turn is next), and the free values. -/

namespace Sys2Proof

/-- Bounds on the cycles of `F_REF` one draw-unit micro-op takes (R356, D32): at least `least`, at most
`least + slack` (DESIGN CHOICE, log entry 7). -/
structure DrawTiming where
  least : Nat
  slack : Nat
  deriving DecidableEq, Repr

/-- The upper bound (R356). -/
def DrawTiming.most (t : DrawTiming) : Nat := t.least + t.slack

/-- The configuration record (R5). `L`, `FB_BYTES` and `T` are computed from it (R6). -/
structure Cfg where
  /-- framebuffer width in pixels, `W` -/
  width : Nat
  /-- framebuffer height in logical rows, `H` -/
  height : Nat
  /-- line-repeat factor, `K` -/
  lineRepeat : Nat
  /-- active-picture lines, `A` -/
  active : Nat
  /-- post-render blank lines, `PB` -/
  postBlank : Nat
  /-- equalizing lines before vertical sync, `E1` -/
  eqBefore : Nat
  /-- vertical-sync lines, `V` -/
  vsync : Nat
  /-- equalizing lines after vertical sync, `E2` -/
  eqAfter : Nat
  /-- pre-render blank lines, `PR` -/
  preBlank : Nat
  /-- reference clock `F_REF` in hertz -/
  fRef : Nat
  /-- line period in cycles, `LINE_CYCLES` -/
  lineCycles : Nat
  /-- horizontal sync pulse, `SYNC_SHORT_CYCLES` -/
  syncShort : Nat
  /-- vertical sync pulse, `SYNC_LONG_CYCLES` -/
  syncLong : Nat
  /-- equalizing pulse, `SYNC_EQ_CYCLES` -/
  syncEq : Nat
  /-- from line start to the first pixel, `HSTART_CYCLES` -/
  hStart : Nat
  /-- cycles per pixel bit, `BIT_CYCLES` -/
  bitCycles : Nat
  /-- ten glyphs of seven rows, `GLYPH_ROM` (R32, R69) -/
  glyphRom : Vector (Vector Byte 7) 10
  /-- `DRAW_TIMING`: `none` while it is OPEN, so that no cycle count may be assumed (R356, D32; log entry 7) -/
  drawTiming : Option DrawTiming
  deriving DecidableEq, Repr

namespace Cfg

/-- `L`, bytes per row (R6). -/
def rowBytes (c : Cfg) : Nat := (c.width + 7) / 8

/-- `FB_BYTES` (R6). -/
def fbBytes (c : Cfg) : Nat := c.rowBytes * c.height

/-- `T`, lines per field (R6). -/
def lines (c : Cfg) : Nat := c.active + c.postBlank + c.eqBefore + c.vsync + c.eqAfter + c.preBlank

/-- `LINE_BITS` (R6). -/
def lineBits (c : Cfg) : Nat := 8 * (c.rowBytes + 1)

/-- `ACTIVE_WINDOW_CYCLES` (R6). -/
def activeWindow (c : Cfg) : Nat := c.lineCycles - c.hStart

/-- The offset after the last bit of an active line (R175): `HSTART_CYCLES + LINE_BITS * BIT_CYCLES`. -/
def lineEnd (c : Cfg) : Nat := c.hStart + c.lineBits * c.bitCycles

/-- `B_ACT_END` (R120), the first line after active picture. -/
def activeEnd (c : Cfg) : Nat := c.active
/-- `B_EQ1` (R120). -/
def eqBeforeStart (c : Cfg) : Nat := c.active + c.postBlank
/-- `B_VS` (R120). -/
def vsyncStart (c : Cfg) : Nat := c.active + c.postBlank + c.eqBefore
/-- `B_EQ2` (R120). -/
def eqAfterStart (c : Cfg) : Nat := c.active + c.postBlank + c.eqBefore + c.vsync
/-- `B_PRE` (R120). -/
def preBlankStart (c : Cfg) : Nat := c.active + c.postBlank + c.eqBefore + c.vsync + c.eqAfter

/-- R7 item 1: the framebuffer's size. -/
abbrev sizeOk (c : Cfg) : Prop := 1 ≤ c.width ∧ c.width ≤ 32767 ∧ 1 ≤ c.height ∧ c.height ≤ 32767
/-- R7 item 2: every byte index fits 16 bits. -/
abbrev bytesOk (c : Cfg) : Prop := c.fbBytes ≤ 65536
/-- R7 item 3: the active lines show every row `K` times. -/
abbrev repeatOk (c : Cfg) : Prop := 1 ≤ c.lineRepeat ∧ c.active = c.height * c.lineRepeat
/-- R7 items 4 and 5: the field has active picture and vertical sync, and fits the 9-bit counter. -/
abbrev fieldOk (c : Cfg) : Prop := 1 ≤ c.active ∧ 1 ≤ c.vsync ∧ c.active < c.lines ∧ c.lines ≤ 512
/-- R7 item 6: the pulses fit their line. -/
abbrev pulsesOk (c : Cfg) : Prop :=
  1 ≤ c.bitCycles ∧ 1 ≤ c.syncEq ∧ c.syncEq < c.lineCycles ∧ 1 ≤ c.syncShort ∧ c.syncShort ≤ c.hStart ∧
  c.syncLong < c.lineCycles ∧ 1 ≤ c.syncLong
/-- R7 item 7: the line, with its pad byte, ends before the next one starts. -/
abbrev deadlineOk (c : Cfg) : Prop := c.lineEnd ≤ c.lineCycles
/-- R7 item 8: bit 0 of every glyph byte is 0. -/
def glyphsOk (c : Cfg) : Bool := c.glyphRom.toList.all fun g => g.toList.all fun b => !b.getLsbD 0
/-- A well-formed configuration (R7). -/
abbrev wf (c : Cfg) : Prop :=
  (c.sizeOk ∧ c.bytesOk ∧ c.repeatOk ∧ c.fieldOk) ∧ c.pulsesOk ∧ c.deadlineOk ∧ c.glyphsOk = true

end Cfg

/-- The default glyph table (R69): glyph by row, row 0 the top. -/
def Config.defaultGlyphs : Vector (Vector Byte 7) 10 :=
  #v[#v[0x70, 0x88, 0x98, 0xA8, 0xC8, 0x88, 0x70],
     #v[0x20, 0x60, 0x20, 0x20, 0x20, 0x20, 0x70],
     #v[0x70, 0x88, 0x08, 0x10, 0x20, 0x40, 0xF8],
     #v[0xF8, 0x10, 0x20, 0x10, 0x08, 0x88, 0x70],
     #v[0x10, 0x30, 0x50, 0x90, 0xF8, 0x10, 0x10],
     #v[0xF8, 0x80, 0xF0, 0x08, 0x08, 0x88, 0x70],
     #v[0x30, 0x40, 0x80, 0xF0, 0x88, 0x88, 0x70],
     #v[0xF8, 0x08, 0x10, 0x20, 0x40, 0x40, 0x40],
     #v[0x70, 0x88, 0x88, 0x70, 0x88, 0x88, 0x70],
     #v[0x70, 0x88, 0x88, 0x78, 0x08, 0x10, 0x60]]

/-- The canonical configuration (R5). -/
def Config.canonical : Cfg where
  width := 88
  height := 48
  lineRepeat := 5
  active := 240
  postBlank := 5
  eqBefore := 0
  vsync := 3
  eqAfter := 0
  preBlank := 14
  fRef := 20000000
  lineCycles := 1270
  syncShort := 94
  syncLong := 1176
  syncEq := 46
  hStart := 218
  bitCycles := 5
  glyphRom := Config.defaultGlyphs
  drawTiming := none

/-- Who moves in one step of the model (R13, R14; DESIGN CHOICE, log entry 1): one agent's atomic step, one
cycle of the clock, one cycle of held reset, or the composite of a command's last word and all its draw steps. -/
inductive Turn where
  /-- the host's next register access (R260) -/
  | host
  /-- the host's next register access and, when it completes a command, every draw step of that command with no
  other agent between: one of the interleavings R13 allows -/
  | command
  /-- one draw step (R190) -/
  | draw
  /-- one TICK (R125): at the line level as R126 enables it, at the cycle level in the cycle with `lt = 0` (R140) -/
  | tick
  /-- one serializer step (R165, R166) -/
  | serial
  /-- the end of one cycle of `F_REF`, at the cycle level (R140) -/
  | cycle
  /-- one cycle with `rst = 1` (R330) -/
  | rst
  deriving DecidableEq, Repr, Inhabited

/-- FREE VALUE (R67, I1; log entry 2): the byte that the `n`-th read of an unwritten framebuffer byte gives. -/
opaque Config.freeByte : Nat → Byte

/-- FREE VALUE (R13; log entry 1): whose turn it is when the `n`-th choice is left open. -/
opaque Config.freeTurn : Nat → Turn

end Sys2Proof
end

