-- ==== Sys2Proof/Machine/Phase.lean ====
section
/-! DEFINITION. Phases and sync widths of a scan line, as functions of its index (R120 to R123, R141, R161). -/

namespace Sys2Proof.Machine

/-- `Phase` (R11). -/
inductive Phase where
  | equalizing
  | verticalSync
  | activePicture
  | blank
  deriving DecidableEq, Repr

/-- `Width`, the sync pulse width class (R11); the code `0b11` is never produced (R25, I13). -/
inductive Width where
  | short
  | long
  | eq
  deriving DecidableEq, Repr

/-- The register encoding of a phase (R24). -/
def phaseCode : Phase → BitVec 2
  | .equalizing => 0
  | .verticalSync => 1
  | .activePicture => 2
  | .blank => 3

/-- The register encoding of a width class (R25). -/
def widthBits : Width → BitVec 2
  | .short => 0
  | .long => 1
  | .eq => 2

/-- `PhaseOf(c)` (R121), for `c < T`. TICK never asks for another line: it faults first (R128;
log entry 16). -/
def phaseOf (cfg : Cfg) (c : Nat) : Phase :=
  if c < cfg.activeEnd then .activePicture
  else if c < cfg.eqBeforeStart then .blank
  else if c < cfg.vsyncStart then .equalizing
  else if c < cfg.eqAfterStart then .verticalSync
  else if c < cfg.preBlankStart then .equalizing
  else .blank

/-- `WidthCode(p)` (R122). -/
def widthCode : Phase → Width
  | .activePicture => .short
  | .blank => .short
  | .verticalSync => .long
  | .equalizing => .eq

/-- `SyncCycles(w)` (R141). -/
def syncCycles (cfg : Cfg) : Width → Nat
  | .short => cfg.syncShort
  | .long => cfg.syncLong
  | .eq => cfg.syncEq

/-- `RowOf(c)` (R161). -/
def rowOf (cfg : Cfg) (c : Nat) : Nat := c / cfg.lineRepeat

/-- The line before line `c` of the field, `(c + T - 1) mod T` (R41, CURLINE). -/
def previousLine (cfg : Cfg) (c : Nat) : Nat := (c + cfg.lines - 1) % cfg.lines

end Sys2Proof.Machine
end

