-- ==== Sys2Proof/Machine/State.lean ====
section
/-! DEFINITION. The state of the block (R20 to R46), plain data, with the reasons a step can stop and the state after
reset. -/

namespace Sys2Proof.Machine

/-- Why the machine stops. None is behaviour of the block, which never stops (R290); each is a model fault. -/
inductive Fault where
  /-- `ConfigRefused` (R295 a, I10): raised by `step` on a configuration that breaks R7, for which the spec gives
  no machine. Safe. -/
  | configRefused
  /-- `SlcOutOfRange` (R128, R295 b, I11): raised by TICK when `slc >= T`, unreachable from reset. Safe. -/
  | slcOutOfRange
  /-- An access to a framebuffer byte `a >= FB_BYTES`, which does not exist (R60, R66; log entry 8): raised by a
  micro-op or a serializer read, unreachable from reset. Safe. -/
  | outsideFramebuffer
  deriving DecidableEq, Repr

/-- Why an instruction has no meaning. -/
inductive Refusal where
  /-- The instruction has no meaning in the model; no arm of `exec` answers so. Safe. -/
  | notModelled (mnemonic : String)
  deriving DecidableEq, Repr

/-- The two levels of the model (R14; log entry 5). -/
inductive Level where
  /-- steps and their order, no time -/
  | line
  /-- cycles of `F_REF` -/
  | cycle
  deriving DecidableEq, Repr

/-- Where the cycle of `F_REF` in progress stands, at the cycle level (R140; the model's own, log entry 9). -/
inductive TickStage where
  /-- the first cycle after reset, its TICK still to come (R332) -/
  | afterReset
  /-- any other cycle, which has had no TICK (yet) -/
  | noTick
  /-- a cycle that has had its TICK -/
  | ticked
  deriving DecidableEq, Repr

/-- What a pixel read-modify-write does to its bit (R190). -/
inductive PixelKind where
  | set
  | clear
  | flip
  deriving DecidableEq, Repr

/-- The draw unit's micro-ops (R190). -/
inductive MicroOp where
  /-- `RMW(a, k, kind)` -/
  | rmw (a k : Nat) (kind : PixelKind)
  /-- `WR(a, v)` -/
  | wr (a : Nat) (v : Byte)
  /-- `SETINIT` -/
  | setinit
  /-- `RDBIT(a, k)` -/
  | rdbit (a k : Nat)
  /-- `RDB(a)` -/
  | rdb (a : Nat)
  /-- `SETRD(v)` -/
  | setrd (v : Byte)
  /-- `ERR(h)` -/
  | err (h : Word)
  /-- `SKIP` -/
  | skip
  deriving DecidableEq, Repr

/-- What the decoding of a complete list of words gives (R96): a command, or an illegal header. -/
inductive Command where
  | legal (i : Instr)
  | illegal (h : Word)
  deriving DecidableEq, Repr

/-- The block's two error conditions (R291, R293). -/
inductive BlockError where
  /-- `CmdError` -/
  | cmdError
  /-- `Overlap` -/
  | overlap
  deriving DecidableEq, Repr

/-- A host bus step (R260). -/
inductive HostAccess where
  /-- `RegRead(a)` -/
  | read (a : BitVec 3)
  /-- `RegWrite(a, d)` -/
  | write (a : BitVec 3) (d : Word)
  deriving DecidableEq, Repr

/-- The word a register read returned (R261). -/
structure ReadRecord where
  addr : BitVec 3
  data : Word
  deriving DecidableEq, Repr

/-- An emitted-line record (R168). -/
structure LineRecord where
  line : BitVec 9
  bytes : List Byte
  deriving DecidableEq, Repr

/-- The framebuffer (R30) with its `fb_written` bits (R31): the written bytes, by rising address. A byte it does not
list has not been written since reset and reads as a free byte (R67). -/
structure Memory where
  cells : List Host.Cell
  deriving DecidableEq, Repr

/-- The state of the block, and what the model adds to it. -/
structure State where
  /-- the configuration (R5), which no step writes (log entry 6) -/
  cfg : Cfg
  /-- the level of the run (R14), which no step writes (log entry 5) -/
  level : Level
  /-- the turns still to come, oldest first (R13, log entry 1) -/
  turns : List Turn
  /-- how many turns have been chosen freely (log entry 1) -/
  choices : Nat
  /-- the host's accesses not yet completed, oldest first (R260, log entry 3) -/
  hostBus : List HostAccess
  /-- what register reads returned, oldest first (R260) -/
  readLog : List ReadRecord
  /-- the emitted-line records, oldest first (R168) -/
  emitted : List LineRecord
  /-- how many free bytes have been read (R67, log entry 2) -/
  draws : Nat
  /-- `slc` (R21) -/
  slc : BitVec 9
  /-- `phase` (R22) -/
  phase : Phase
  /-- `syncw_next` (R23) -/
  syncwNext : Width
  /-- `syncw_cur` (R23) -/
  syncwCur : Width
  /-- `lt` (R26) -/
  lt : Nat
  /-- where the cycle in progress stands to its TICK; used at the cycle level alone (R140, R332; log entry 9) -/
  tickStage : TickStage
  /-- `ser_busy` (R27) -/
  serBusy : Bool
  /-- `ser_line` (R28) -/
  serLine : BitVec 9
  /-- `ser_row` (R28) -/
  serRow : Nat
  /-- `ser_idx` (R28) -/
  serIdx : Nat
  /-- `ser_blank` (R28) -/
  serBlank : Bool
  /-- `ser_buf` (R28) -/
  serBuf : List Byte
  /-- `init` (R29) -/
  init : Bool
  /-- `FB` and `fb_written` (R30, R31) -/
  mem : Memory
  /-- `asm_buf` (R33) -/
  asmBuf : Vector Word 5
  /-- `asm_idx` (R33) -/
  asmIdx : BitVec 3
  /-- `busy` (R34) -/
  busy : Bool
  /-- `cur_cmd` (R35) -/
  curCmd : Option Command
  /-- `ops` (R36) -/
  ops : List MicroOp
  /-- cycles the current micro-op has waited, read only with a given `DRAW_TIMING` (log entry 7) -/
  drawAge : Nat
  /-- `rdata` (R37) -/
  rdata : Byte
  /-- `cmd_err` (R38) -/
  cmdErr : Bool
  /-- `overlap` (R39) -/
  overlap : Bool
  /-- `irq_pend` (R40): bit 0 `LINE_EV`, bit 1 `VBLANK_EV` -/
  irqPend : BitVec 2
  /-- `irq_en` (R40) -/
  irqEn : BitVec 2
  /-- output `sync_n` (R142), as last driven -/
  syncN : Bool
  /-- output `video` (R176), as last driven -/
  video : Bool
  deriving DecidableEq, Repr

/-- The state after reset of a block with configuration `cfg` (R46, and R331 for the outputs, log entry 14). The values the spec
leaves unspecified are zeros that no rule reads (DESIGN CHOICE, log entry 4). -/
def State.afterReset (cfg : Cfg) : State where
  cfg := cfg
  level := .line
  turns := []
  choices := 0
  hostBus := []
  readLog := []
  emitted := []
  draws := 0
  slc := 0
  phase := phaseOf cfg (cfg.lines - 1)
  syncwNext := widthCode (phaseOf cfg 0)
  syncwCur := widthCode (phaseOf cfg (cfg.lines - 1))
  lt := 0
  tickStage := .afterReset
  serBusy := false
  serLine := 0
  serRow := 0
  serIdx := 0
  serBlank := false
  serBuf := List.replicate (cfg.rowBytes + 1) 0
  init := false
  mem := { cells := [] }
  asmBuf := Vector.replicate 5 0
  asmIdx := 0
  busy := false
  curCmd := none
  ops := []
  drawAge := 0
  rdata := 0
  cmdErr := false
  overlap := false
  irqPend := 0
  irqEn := 0
  syncN := true
  video := false

/-- The machine right after reset (R46), in the canonical configuration (R5). -/
def State.reset : State := State.afterReset Config.canonical

end Sys2Proof.Machine
end

