-- ==== Sys2Proof/Machine/Flags.lean ====
section
/-! DEFINITION. The status bits: the STATUS word (R42, R261), the error flags and the event bits (R291, R293, R300 to
R302). -/

namespace Sys2Proof.Machine

/-- `raise CmdError` and `raise Overlap` (R10, R291, R293): the block's one reaction to an error is to set its sticky
flag. Nothing is saved and no vector is taken (R306). -/
def raiseError (e : BlockError) (s : State) : State :=
  match e with
  | .cmdError => { s with cmdErr := true }
  | .overlap => { s with overlap := true }

/-- The event bits that the TICK of line `c` sets (R301, R302): `LINE_EV`, and `VBLANK_EV` on line `A`. -/
def tickEvents (cfg : Cfg) (c : Nat) : BitVec 2 := if c = cfg.active then 0b11 else 0b01

/-- An event sets its pending bit whatever its enable bit (R303); pending bits coalesce (R305). -/
def raiseEvents (ev : BitVec 2) (s : State) : State := { s with irqPend := s.irqPend ||| ev }

/-- The interrupt output `irq` (R300). -/
def irq (s : State) : Bool := s.irqPend &&& s.irqEn != 0#2

/-- The STATUS register (R42, R261). -/
def statusWord (s : State) : Word :=
  (0#6 ++ BitVec.ofBool s.overlap ++ BitVec.ofBool s.cmdErr ++ BitVec.ofBool s.serBusy ++
    BitVec.ofBool (s.asmIdx != 0#3) ++ BitVec.ofBool s.busy ++ BitVec.ofBool s.init ++
    widthBits s.syncwNext ++ phaseCode s.phase)

end Sys2Proof.Machine
end

