-- ==== Sys2Proof/Machine/Operands.lean ====
section
/-! DEFINITION. Operand forms: pixel coordinates, byte addresses, bit positions and glyph rows (R61, R63, R69,
R192). -/

namespace Sys2Proof.Machine

/-- `InRange(x, y)` (R192). -/
def inRange (cfg : Cfg) (x y : Int) : Bool :=
  decide ((0 ≤ x ∧ x ≤ (cfg.width : Int) - 1) ∧ 0 ≤ y ∧ y ≤ (cfg.height : Int) - 1)

/-- `ByteAddr(x, y)` (R61), for an in-range pixel. -/
def byteAddr (cfg : Cfg) (x y : Int) : Nat := y.toNat * cfg.rowBytes + x.toNat / 8

/-- `BitPos(x)` (R61, R63): bit 7 is the leftmost pixel of its byte. -/
def bitPos (x : Int) : Nat := 7 - x.toNat % 8

/-- `GlyphRead(g, r)` (R69). -/
def glyphRead (cfg : Cfg) (g r : Nat) : Byte := (cfg.glyphRom[g]?.bind fun rows => rows[r]?).getD 0

/-- `PixOp(x, y, kind)` (R191), for an in-range pixel. -/
def pixOp (cfg : Cfg) (kind : PixelKind) (x y : Int) : MicroOp := .rmw (byteAddr cfg x y) (bitPos x) kind

/-- The byte a pixel operation writes back (R190). -/
def pixelByte (kind : PixelKind) (k : Nat) (b : Byte) : Byte :=
  match kind with
  | .set => b ||| (1#8 <<< k)
  | .clear => b &&& ~~~(1#8 <<< k)
  | .flip => b ^^^ (1#8 <<< k)

end Sys2Proof.Machine
end

