-- ==== Sys2Proof/Machine/Ops.lean ====
section
/-! DEFINITION. The named operations over the framebuffer and the draw unit (R66 to R68, R190, R194). -/

namespace Sys2Proof.Machine

/-- The outcome of an operation. -/
abbrev Out := Host.Outcome State Fault Refusal

/-- Run `f` on the next state, if there is one. -/
def andThen (o : Out) (f : State → Out) : Out :=
  match o with
  | .next s => f s
  | .fault r => .fault r
  | .refused r => .refused r

/-- The listed value of byte `a`, if it is listed. -/
def lookupCells : List Host.Cell → Nat → Option Byte
  | [], _ => none
  | (b, v) :: rest, a => if a = b then some v else lookupCells rest a

/-- List `v` at `a`, keeping the addresses rising. -/
def storeCells : List Host.Cell → Nat → Byte → List Host.Cell
  | [], a, v => [(a, v)]
  | (b, u) :: rest, a, v =>
    if a < b then (a, v) :: (b, u) :: rest
    else if a = b then (a, v) :: rest
    else (b, u) :: storeCells rest a v

/-- The last value written to byte `a` since reset; `none` when there is none (R31, R66). -/
def Memory.lookup (m : Memory) (a : Nat) : Option Byte := lookupCells m.cells a

/-- `fb_written[a]` (R31). -/
def Memory.written (m : Memory) (a : Nat) : Bool := (m.lookup a).isSome

/-- Byte `a` written with `v` (R66). -/
def Memory.store (m : Memory) (a : Nat) (v : Byte) : Memory := { cells := storeCells m.cells a v }

/-- The canonical form, addresses strictly rising, which is the model's own (DESIGN CHOICE, log entry 2). An unlisted
byte has no fixed value (R67), so every written byte is listed. -/
abbrev Memory.wf (m : Memory) : Prop := (m.cells.map Prod.fst).Pairwise (· < ·)

/-- One free byte has been read (R67). -/
def countDraw (s : State) : State := { s with draws := s.draws + 1 }

/-- `MemRead(a, 1)` (R61, R67): the last value written, else a fresh free byte. -/
def readByte (a : Nat) (s : State) : Byte × State :=
  match s.mem.lookup a with
  | some v => (v, s)
  | none => (Config.freeByte s.draws, countDraw s)

/-- `MemWrite(a, 1, v)` (R66). -/
def storeByte (a : Nat) (v : Byte) (s : State) : State := { s with mem := s.mem.store a v }

/-- `DrawWrite(a, v)` (R194): a write on an active line raises `Overlap` and is performed. -/
def drawWrite (a : Nat) (v : Byte) (s : State) : State :=
  storeByte a v (if s.phase = .activePicture then raiseError .overlap s else s)

/-- An operation on framebuffer byte `a`, which must exist (R60, R66). -/
def atByte (a : Nat) (s : State) (f : State → State) : Out :=
  if a < s.cfg.fbBytes then .next (f s) else .fault .outsideFramebuffer

/-- `rdata <- v` (R37). -/
def setRdata (v : Byte) (s : State) : State := { s with rdata := v }

/-- `RMW(a, k, kind)` on an existing byte (R190, R191). -/
def rmwByte (a k : Nat) (kind : PixelKind) (s : State) : State :=
  drawWrite a (pixelByte kind k (readByte a s).1) (readByte a s).2

/-- `RDB(a)` on an existing byte (R190). -/
def rdataFromByte (a : Nat) (s : State) : State := setRdata (readByte a s).1 (readByte a s).2

/-- `RDBIT(a, k)` on an existing byte (R190): the bit, zero-extended. -/
def rdataFromBit (a k : Nat) (s : State) : State :=
  setRdata ((BitVec.ofBool ((readByte a s).1.getLsbD k)).setWidth 8) (readByte a s).2

/-- One micro-op (R190). -/
def performOp (op : MicroOp) (s : State) : Out :=
  match op with
  | .rmw a k kind => atByte a s (rmwByte a k kind)
  | .wr a v => atByte a s (drawWrite a v)
  | .setinit => .next { s with init := true }
  | .rdbit a k => atByte a s (rdataFromBit a k)
  | .rdb a => atByte a s (rdataFromByte a)
  | .setrd v => .next (setRdata v s)
  | .err _ => .next (raiseError .cmdError s)
  | .skip => .next s

/-- `Accept` (R190): the draw unit holds command `c` with plan `plan`. -/
def beginCommand (c : Command) (plan : List MicroOp) (s : State) : State :=
  { s with curCmd := some c, ops := plan, busy := true, drawAge := 0 }

/-- What is left of a command after one of its micro-ops: `ops <- tail(ops)`, and `busy <- 0` when that is empty
(R190). No copy of a finished command is kept (R291, I6; DESIGN CHOICE, log entry 17). -/
def leaveOps (rest : List MicroOp) (s : State) : State :=
  { s with
    ops := rest
    busy := !rest.isEmpty
    curCmd := if rest.isEmpty then none else s.curCmd
    drawAge := 0 }

/-- `DrawStep` (R190), enabled when `busy = 1`; without it the draw unit has no step. A busy draw unit always has a
micro-op (R190), so the last case is unreachable. -/
def drawStep (s : State) : Out :=
  if s.busy then
    match s.ops with
    | op :: rest => andThen (performOp op s) fun s => .next (leaveOps rest s)
    | [] => .next (leaveOps [] s)
  else .next s

/-- `n` draw steps, one after another. -/
def drawSteps : Nat → State → Out
  | 0, s => .next s
  | n + 1, s => andThen (drawStep s) (drawSteps n)

/-- The micro-ops `plan` performed in order, with no other agent between, until the draw unit is idle. -/
def runOps : List MicroOp → State → Out
  | [], s => .next (leaveOps [] s)
  | op :: rest, s => andThen (performOp op s) (runOps rest)

/-- The draw unit finishes the command it holds before it takes another (R75, R263; DEDUCED, log entry 13). -/
def finishPending (s : State) : Out := if s.busy then runOps s.ops s else .next s

/-- A whole command: accepted, planned from the state it is accepted in, and performed (R190). Its micro-ops can also
run one step at a time, with other agents between (`acceptCommand`, `drawStep`). -/
def runCommand (c : Command) (plan : State → List MicroOp) (s : State) : Out :=
  andThen (finishPending s) fun s => runOps (plan s) (beginCommand c (plan s) s)

end Sys2Proof.Machine
end

