-- ==== Sys2Proof/Machine/Serializer.lean ====
section
/-! DEFINITION. The line serializer at the line level (R163 to R171). -/

namespace Sys2Proof.Machine

/-- `SerializerStart(c)` (R163). -/
def serializerStart (c : BitVec 9) (s : State) : State :=
  { s with
    serBusy := true
    serLine := c
    serRow := rowOf s.cfg c.toNat
    serIdx := 0
    serBlank := !s.init }

/-- The next byte of the line (R165): `ser_buf[ser_idx] <- b` and `ser_idx <- ser_idx + 1`. -/
def pushLineByte (b : Byte) (s : State) : State :=
  { s with serBuf := s.serBuf.set s.serIdx b, serIdx := s.serIdx + 1 }

/-- `SerReadByte` (R165), on a serializer with a byte to read. -/
def serReadByte (s : State) : Out :=
  if s.serBlank then .next (pushLineByte 0 s)
  else
    let a := s.serRow * s.cfg.rowBytes + s.serIdx
    atByte a s fun s => pushLineByte (readByte a s).1 (readByte a s).2

/-- `SerFinish` (R166), on a serializer with every byte read: the pad byte, the record, and the serializer idle. Its five
registers, which the spec leaves any value between lines (R28, I4), keep their last values (DESIGN CHOICE, log
entry 18). -/
def serFinish (s : State) : State :=
  let buf := s.serBuf.set s.cfg.rowBytes 0
  { s with
    serBuf := buf
    serBusy := false
    emitted := s.emitted ++ [{ line := s.serLine, bytes := buf.take (s.cfg.rowBytes + 1) }] }

/-- One serializer step (R165, R166), if one is enabled. At the cycle level the line ends with its last bit (R179), so
the finish is the clock's (`clockFinish`). -/
def serialStep (s : State) : Out :=
  if s.serBusy then
    if s.serIdx < s.cfg.rowBytes then serReadByte s
    else if s.serIdx = s.cfg.rowBytes ∧ s.level = .line then .next (serFinish s)
    else .next s
  else .next s

end Sys2Proof.Machine
end

