-- ==== Sys2Proof/Machine/Timing.lean ====
section
/-! DEFINITION. The timing controller (R120 to R130, R140). -/

namespace Sys2Proof.Machine

/-- TICK for a line `c < T` (R125). -/
def startLine (c : Nat) (s : State) : State :=
  let s := raiseEvents (tickEvents s.cfg c)
    { s with
      phase := phaseOf s.cfg c
      syncwCur := s.syncwNext
      syncwNext := widthCode (phaseOf s.cfg ((c + 1) % s.cfg.lines)) }
  let s := if s.phase = .activePicture then serializerStart s.slc s else s
  { s with slc := BitVec.ofNat 9 ((c + 1) % s.cfg.lines) }

/-- TICK (R125), which faults on a line outside the field (R128). -/
def tick (s : State) : Out :=
  if s.slc.toNat < s.cfg.lines then .next (startLine s.slc.toNat s) else .fault .slcOutOfRange

/-- The TICK of a cycle of `F_REF` (R140): the cycle with `lt = 0` has one, whatever stands before and after it in that
cycle. -/
def cycleTick (s : State) : Out :=
  if s.lt = 0 ∧ s.tickStage ≠ .ticked then andThen (tick s) fun t => .next { t with tickStage := .ticked }
  else .next s

/-- The timing controller's step: at the line level TICK, enabled when the serializer is idle (R126); at the cycle level the
TICK that the line timer raises (R140). -/
def tickStep (s : State) : Out :=
  match s.level with
  | .line => if s.serBusy = false then tick s else .next s
  | .cycle => cycleTick s

end Sys2Proof.Machine
end

