-- ==== Sys2Proof/Machine/Cycle.lean ====
section
/-! DEFINITION. The cycle level (R140 to R146, R175 to R180) and reset (R330, R331).

A cycle of `F_REF` is the turns up to and including its `.cycle` turn, in any order: the other agents' turns may stand
before that cycle's TICK or after it, and on either side of each other (R13, R76, R177; DESIGN CHOICE, log entry 9). Two
orders the spec fixes: a write of IRQ_PEND stands before the TICK of its cycle (R304, `nextCycles`), and in the first cycle
after reset the draw unit has no step before the TICK (R332, `drawEnabled`). The `.cycle` turn ends the cycle and does what no
agent may leave for a later one. -/

namespace Sys2Proof.Machine

/-- The level `sync_n` has at offset `u` of a line of width class `w` (R142). -/
def syncLevel (cfg : Cfg) (w : Width) (u : Nat) : Bool := decide (syncCycles cfg w ≤ u)

/-- Stream bit `j` of a line (R169). -/
def streamBit (bytes : List Byte) (j : Nat) : Bool := (bytes.getD (j / 8) 0).getLsbD (7 - j % 8)

/-- The level `video` has at offset `u` of a line of phase `p` whose bytes are `bytes` (R175, R176). -/
def videoLevel (cfg : Cfg) (p : Phase) (bytes : List Byte) (u : Nat) : Bool :=
  decide (p = .activePicture ∧ cfg.hStart ≤ u ∧ u < cfg.lineEnd) &&
    streamBit bytes ((u - cfg.hStart) / cfg.bitCycles)

/-- `sync_n` at cycle `t` after reset (R140, R142), in closed form. -/
def syncNAt (cfg : Cfg) (t : Nat) : Bool :=
  syncLevel cfg (widthCode (phaseOf cfg (t / cfg.lineCycles % cfg.lines))) (t % cfg.lineCycles)

/-- Both outputs driven for the cycle at offset `lt` (R142, R176). -/
def driveOutputs (s : State) : State :=
  { s with
    syncN := syncLevel s.cfg s.syncwCur s.lt
    video := videoLevel s.cfg s.phase s.serBuf s.lt }

/-- The cycle is the last one in which the serializer may read its next byte (R177). -/
def readDue (s : State) : Bool :=
  s.serBusy && decide (s.serIdx < s.cfg.rowBytes ∧ s.cfg.hStart + 8 * s.serIdx * s.cfg.bitCycles ≤ s.lt + 1)

/-- The byte that is due is read, if no `.serial` turn of its window has read it (R177; log entry 10). -/
def clockRead (s : State) : Out := if readDue s then serReadByte s else .next s

/-- The line ends with the last bit of its pad byte (R179). -/
def clockFinish (s : State) : State :=
  if s.serBusy && decide (s.serIdx = s.cfg.rowBytes ∧ s.lt + 1 = s.cfg.lineEnd) then serFinish s else s

/-- The current micro-op is a cycle older. -/
def ageDraw (s : State) : State := if s.busy then { s with drawAge := s.drawAge + 1 } else s

/-- The micro-ops, of at most the first `n`, that have waited `most` cycles are performed (R356). -/
def dueDraws (most : Nat) : Nat → State → Out
  | 0, s => .next s
  | n + 1, s => if s.busy ∧ most ≤ s.drawAge then andThen (drawStep s) (dueDraws most n) else .next s

/-- At the end of a cycle, the micro-ops at the upper bound of a given `DRAW_TIMING` that no `.draw` turn of the cycle has
performed (R356; log entry 7); with none given, no cycle count is assumed (D32). -/
def clockDraw (s : State) : Out :=
  match s.cfg.drawTiming with
  | none => .next s
  | some t => dueDraws t.most s.ops.length s

/-- `lt <- (lt + 1) mod LINE_CYCLES` (R140), and the next cycle has had no TICK yet. -/
def advanceTimer (s : State) : State := { s with lt := (s.lt + 1) % s.cfg.lineCycles, tickStage := .noTick }

/-- The end of one cycle of `F_REF` (R140): its TICK if it has one and no `.tick` turn took it, the outputs, the
serializer's deadlines, the draw unit's, and the line timer. -/
def clockCycle (s : State) : Out :=
  andThen (cycleTick s) fun s =>
    andThen (clockRead (driveOutputs s)) fun s =>
      andThen (clockDraw (clockFinish s)) fun s => .next (advanceTimer (ageDraw s))

/-- The clock's step: only the cycle level has one (R14). -/
def cycleStep (s : State) : Out := if s.level = .cycle then clockCycle s else .next s

/-- The micro-op has waited the lower bound of a given `DRAW_TIMING` (R356). -/
def drawReady (s : State) : Bool :=
  match s.cfg.drawTiming with
  | none => true
  | some t => decide (t.least ≤ s.drawAge)

/-- The draw unit may step: always at the line level (R190); at the cycle level not before the first TICK after reset,
which starts with `init = 0` (R332), and not before the lower bound of a given `DRAW_TIMING` (R356). -/
def drawEnabled (s : State) : Bool :=
  match s.level with
  | .line => true
  | .cycle => decide (s.tickStage ≠ .afterReset) && drawReady s

/-- The draw unit's turn. -/
def drawTurn (s : State) : Out := if drawEnabled s then drawStep s else .next s

/-- One cycle with `rst = 1` (R330, R331): every piece of the block's state at its reset value. What is not the
block's stays: the configuration, the level, the environment's lists, the observations and the counters of the free
values (DESIGN CHOICE, log entry 12), with what the cycle's other turns before this one did to them (DESIGN CHOICE, log
entry 19). -/
def resetBlock (s : State) : State :=
  { State.afterReset s.cfg with
    level := s.level
    turns := s.turns
    choices := s.choices
    hostBus := s.hostBus
    readLog := s.readLog
    emitted := s.emitted
    draws := s.draws }

end Sys2Proof.Machine
end

