-- ==== Sys2Proof/Machine/Control.lean ====
section
/-! DEFINITION. NOP and INIT (R196, R200), and an illegal command (R291). -/

namespace Sys2Proof.Machine

/-- `Plan(Nop)` (R196). -/
def planNop (_ : State) : List MicroOp := [.skip]

/-- NOP (R196). -/
def execNop (s : State) : Out := runCommand (.legal .nop) planNop s

/-- `Plan(Init)` (R200), not gated by `init` (R193). -/
def planInit (_ : State) : List MicroOp := [.setinit]

/-- INIT (R200). -/
def execInit (s : State) : Out := runCommand (.legal .init) planInit s

/-- `Plan(Illegal(h))` (R291). -/
def planIllegal (h : Word) (_ : State) : List MicroOp := [.err h]

/-- An illegal command, accepted and performed (R291). -/
def execIllegal (h : Word) (s : State) : Out := runCommand (.illegal h) (planIllegal h) s

end Sys2Proof.Machine
end

