-- ==== Sys2Proof/Machine/Digit.lean ====
section
/-! DEFINITION. DIGIT (R230, R231). -/

namespace Sys2Proof.Machine

/-- The rows `r` of a glyph at row `y` that lie in the buffer (R230, R231 d). -/
def digitRows (cfg : Cfg) (y : Int) : List Nat :=
  (List.range 7).filter fun r : Nat => decide (y + (r : Int) ≤ (cfg.height : Int) - 1)

/-- `Plan(Digit(g, x, y))` (R230): whole bytes of byte column `x div 8` (R231 b, c). -/
def planDigit (g : Nat) (x y : Int) (s : State) : List MicroOp :=
  if s.init && decide (g ≤ 9) && inRange s.cfg x y then
    (digitRows s.cfg y).map fun r : Nat =>
      .wr ((y + (r : Int)).toNat * s.cfg.rowBytes + x.toNat / 8) (glyphRead s.cfg g r)
  else [.skip]

/-- DIGIT (R230). -/
def execDigit (g : Nat) (x y : Int) (s : State) : Out :=
  runCommand (.legal (.digit g x y)) (planDigit g x y) s

end Sys2Proof.Machine
end

