-- ==== Sys2Proof/Machine/Fill.lean ====
section
/-! DEFINITION. CLEAR (R204). -/

namespace Sys2Proof.Machine

/-- `Plan(Clear(p))` (R204): every byte, by rising address. -/
def planClear (p : Byte) (s : State) : List MicroOp :=
  if s.init then (List.range s.cfg.fbBytes).map fun a => .wr a p else [.skip]

/-- CLEAR (R204). -/
def execClear (p : Byte) (s : State) : Out := runCommand (.legal (.clear p)) (planClear p) s

end Sys2Proof.Machine
end

