-- ==== Sys2Proof/Machine/Bresenham.lean ====
section
/-! DEFINITION. `BresenhamPoints` (R221), over mathematical integers. -/

namespace Sys2Proof.Machine

/-- The loop of R221 from the point `(x, y)` with error `err`. The first argument bounds the number of points; the loop
ends at the endpoint before the bound does (R222 item 1; DEDUCED, log entry 11). -/
def bresenhamFrom (x1 y1 dx dy sx sy : Int) : Nat → Int → Int → Int → List (Int × Int)
  | 0, _, _, _ => []
  | n + 1, err, x, y =>
    (x, y) ::
      if x = x1 ∧ y = y1 then []
      else
        let stepX := decide (err > -dx)
        let stepY := decide (err < dy)
        bresenhamFrom x1 y1 dx dy sx sy n
          ((err - if stepX then dy else 0) + if stepY then dx else 0)
          (if stepX then x + sx else x)
          (if stepY then y + sy else y)

/-- `BresenhamPoints(x0, y0, x1, y1)` (R221), in visiting order; the division truncates (D17). -/
def bresenhamPoints (x0 y0 x1 y1 : Int) : List (Int × Int) :=
  let dx : Int := (x1 - x0).natAbs
  let dy : Int := (y1 - y0).natAbs
  bresenhamFrom x1 y1 dx dy (if x0 < x1 then 1 else -1) (if y0 < y1 then 1 else -1)
    ((x1 - x0).natAbs + (y1 - y0).natAbs + 1)
    (Int.tdiv (if dx > dy then dx else -dy) 2) x0 y0

end Sys2Proof.Machine
end

