-- ==== Sys2Proof/Machine/LineDraw.lean ====
section
/-! DEFINITION. LINE (R220, R223). -/

namespace Sys2Proof.Machine

/-- The points of a line that fall inside the buffer, in visiting order (R220, R223 b). -/
def linePixels (cfg : Cfg) (x0 y0 x1 y1 : Int) : List (Int × Int) :=
  (bresenhamPoints x0 y0 x1 y1).filter fun p => inRange cfg p.1 p.2

/-- A plan is never empty: one with nothing to do is `[SKIP]` (R190, R220). -/
def orSkip (plan : List MicroOp) : List MicroOp := if plan.isEmpty then [.skip] else plan

/-- `Plan(Line(x0, y0, x1, y1))` (R220). -/
def planLine (x0 y0 x1 y1 : Int) (s : State) : List MicroOp :=
  if s.init then
    orSkip ((linePixels s.cfg x0 y0 x1 y1).map fun p => pixOp s.cfg .set p.1 p.2)
  else [.skip]

/-- LINE (R220). -/
def execLine (x0 y0 x1 y1 : Int) (s : State) : Out :=
  runCommand (.legal (.line x0 y0 x1 y1)) (planLine x0 y0 x1 y1) s

end Sys2Proof.Machine
end

