-- ==== Sys2Proof/Machine/Pixel.lean ====
section
/-! DEFINITION. PSET, PRESET and PFLIP (R210, R213, R216). -/

namespace Sys2Proof.Machine

/-- The plan of a pixel command (R210, R213, R216): one pixel operation, or nothing before INIT (R193) or out of range
(R192). -/
def planPixel (kind : PixelKind) (x y : Int) (s : State) : List MicroOp :=
  if s.init && inRange s.cfg x y then [pixOp s.cfg kind x y] else [.skip]

/-- `Plan(Pset(x, y))` (R210). -/
def planPset (x y : Int) (s : State) : List MicroOp := planPixel .set x y s

/-- PSET (R210). -/
def execPset (x y : Int) (s : State) : Out := runCommand (.legal (.pset x y)) (planPset x y) s

/-- `Plan(Preset(x, y))` (R213). -/
def planPreset (x y : Int) (s : State) : List MicroOp := planPixel .clear x y s

/-- PRESET (R213). -/
def execPreset (x y : Int) (s : State) : Out := runCommand (.legal (.preset x y)) (planPreset x y) s

/-- `Plan(Pflip(x, y))` (R216). -/
def planPflip (x y : Int) (s : State) : List MicroOp := planPixel .flip x y s

/-- PFLIP (R216). -/
def execPflip (x y : Int) (s : State) : Out := runCommand (.legal (.pflip x y)) (planPflip x y) s

end Sys2Proof.Machine
end

