-- ==== Sys2Proof/Machine/ReadBack.lean ====
section
/-! DEFINITION. PGET and RDBYTE (R240, R243), not gated by `init` (R193). -/

namespace Sys2Proof.Machine

/-- `Plan(Pget(x, y))` (R240). -/
def planPget (x y : Int) (s : State) : List MicroOp :=
  if inRange s.cfg x y then [.rdbit (byteAddr s.cfg x y) (bitPos x)] else [.setrd 0]

/-- PGET (R240). -/
def execPget (x y : Int) (s : State) : Out := runCommand (.legal (.pget x y)) (planPget x y) s

/-- `Plan(Rdbyte(i))` (R243). -/
def planRdbyte (i : Nat) (s : State) : List MicroOp :=
  if i < s.cfg.fbBytes then [.rdb i] else [.setrd 0]

/-- RDBYTE (R243). -/
def execRdbyte (i : Nat) (s : State) : Out := runCommand (.legal (.rdbyte i)) (planRdbyte i) s

end Sys2Proof.Machine
end

