-- ==== Sys2Proof/Machine/Dispatch.lean ====
section
/-! DEFINITION. The meaning of every command: one arm per constructor of Instr. -/

namespace Sys2Proof.Machine

def exec (i : Instr) (s : State) : Host.Outcome State Fault Refusal :=
  match i with
  | .nop => Sys2Proof.Machine.execNop s
  | .init => Sys2Proof.Machine.execInit s
  | .clear p => Sys2Proof.Machine.execClear p s
  | .pset x y => Sys2Proof.Machine.execPset x y s
  | .preset x y => Sys2Proof.Machine.execPreset x y s
  | .pflip x y => Sys2Proof.Machine.execPflip x y s
  | .line x0 y0 x1 y1 => Sys2Proof.Machine.execLine x0 y0 x1 y1 s
  | .digit g x y => Sys2Proof.Machine.execDigit g x y s
  | .pget x y => Sys2Proof.Machine.execPget x y s
  | .rdbyte k => Sys2Proof.Machine.execRdbyte k s

end Sys2Proof.Machine
end

