-- ==== Sys2Proof/Machine/Plan.lean ====
section
/-! DEFINITION. `Plan` (R190) over every command, for the draw unit's single steps. -/

namespace Sys2Proof.Machine

/-- `Plan(cur_cmd)` (R190): the rule of each command gives its own. -/
def planOf (c : Command) (s : State) : List MicroOp :=
  match c with
  | .illegal h => planIllegal h s
  | .legal .nop => planNop s
  | .legal .init => planInit s
  | .legal (.clear p) => planClear p s
  | .legal (.pset x y) => planPset x y s
  | .legal (.preset x y) => planPreset x y s
  | .legal (.pflip x y) => planPflip x y s
  | .legal (.line x0 y0 x1 y1) => planLine x0 y0 x1 y1 s
  | .legal (.digit g x y) => planDigit g x y s
  | .legal (.pget x y) => planPget x y s
  | .legal (.rdbyte k) => planRdbyte k s

/-- `Accept` (R190): the draw unit takes a complete command and plans it. -/
def acceptCommand (c : Command) (s : State) : State := beginCommand c (planOf c s) s

end Sys2Proof.Machine
end

