-- ==== Sys2Proof/Machine/HostBus.lean ====
section
/-! DEFINITION. The host's register accesses (R41 to R45, R260 to R266). -/

namespace Sys2Proof.Machine

/-- `RegRead(a)` (R261), with no side effect. -/
def regRead (a : BitVec 3) (s : State) : Word :=
  match a.toNat with
  | 0 => statusWord s
  | 1 => s.slc.setWidth 16
  | 2 => BitVec.ofNat 16 (previousLine s.cfg s.slc.toNat)
  | 3 => s.irqPend.setWidth 16
  | 4 => s.irqEn.setWidth 16
  | 6 => s.rdata.setWidth 16
  | _ => 0

/-- The assembler's buffer with the next word in it (R262). -/
def asmStore (w : Word) (s : State) : Vector Word 5 := s.asmBuf.setIfInBounds s.asmIdx.toNat w

/-- `n`, the length of the command being assembled, from its header (R262, R91). -/
def asmLength (buf : Vector Word 5) : Nat := cmdLen (opField (buf.getD 0 0))

/-- The command that a complete list of words stands for (R96): decoded, or illegal by its header. -/
def commandOf (words : List Word) : Command :=
  match decode words with
  | .command i => .legal i
  | .rejected _ => .illegal (words.headD 0)

/-- Word `w` taken by the command assembler (R262): the state after it and, when `w` is the last word, the command it
completes. The words at and above the new `asm_idx`, which the spec leaves any value (R33, I5), stay as they were (DESIGN
CHOICE, log entry 18). -/
def takeWord (w : Word) (s : State) : State × Option Command :=
  let buf := asmStore w s
  if s.asmIdx.toNat + 1 = asmLength buf then
    ({ s with asmBuf := buf, asmIdx := 0 }, some (commandOf (buf.toList.take (asmLength buf))))
  else ({ s with asmBuf := buf, asmIdx := s.asmIdx + 1 }, none)

/-- `RegWrite(5, w)` while `busy = 0` (R262). -/
def writeCmd (w : Word) (s : State) : State :=
  match takeWord w s with
  | (s, some c) => acceptCommand c s
  | (s, none) => s

/-- `RegWrite(a, d)` for every register but CMD (R264 to R266). -/
def writeOther (a : BitVec 3) (d : Word) (s : State) : State :=
  match a.toNat with
  | 3 => { s with irqPend := s.irqPend &&& ~~~(d.extractLsb' 0 2) }
  | 4 => { s with irqEn := d.extractLsb' 0 2 }
  | _ => s

/-- The address of CMD (R41). -/
def cmdAddr : BitVec 3 := 5

/-- The address of IRQ_PEND (R41). -/
def irqPendAddr : BitVec 3 := 3

/-- The access is one that the cycle in progress cannot hold any more: in the cycle of a TICK a write of IRQ_PEND stands
before the TICK, so that the set wins (R304) and the host's steps keep their order (R345). After the TICK it is the next
cycle's (DESIGN CHOICE, log entry 9). -/
def nextCycles (a : BitVec 3) (s : State) : Bool := decide (a = irqPendAddr ∧ s.tickStage = .ticked)

/-- The host's next access (R260). A CMD write waits, with no step, while `busy = 1` (R263); a host with nothing to do
has no step either. -/
def hostStep (s : State) : State :=
  match s.hostBus with
  | [] => s
  | .read a :: rest => { s with hostBus := rest, readLog := s.readLog ++ [{ addr := a, data := regRead a s }] }
  | .write a d :: rest =>
    if a = cmdAddr then
      if s.busy then s else writeCmd d { s with hostBus := rest }
    else if nextCycles a s then s
    else writeOther a d { s with hostBus := rest }

end Sys2Proof.Machine
end

