-- ==== Sys2Proof/Machine/Turns.lean ====
section
/-! DEFINITION. What a turn does (R13): one agent's atomic step, or the composite of a whole command. -/

namespace Sys2Proof.Machine

/-- The command that the host's last word completed, accepted and performed with no other agent between. -/
def execCommand (c : Command) (s : State) : Out :=
  match c with
  | .legal i => exec i s
  | .illegal h => execIllegal h s

/-- A `.command` turn: the host's next access and, when it completes a command, the whole command. At the cycle level,
where a micro-op takes its time, only the access. -/
def commandTurn (s : State) : Out :=
  match s.hostBus with
  | .write a d :: rest =>
    if a = cmdAddr ∧ s.busy = false ∧ s.level = .line then
      match takeWord d { s with hostBus := rest } with
      | (s, some c) => execCommand c s
      | (s, none) => .next s
    else .next (hostStep s)
  | _ => .next (hostStep s)

/-- One turn. An agent that has no enabled step lets its turn pass (log entry 1). A turn that stands before the `.rst` turn
of a cycle with `rst = 1`, also between two of them, is taken as any other, and the `.rst` turn then resets what it did to
the block (DESIGN CHOICE, log entry 19). -/
def takeTurn (t : Turn) (s : State) : Out :=
  match t with
  | .host => .next (hostStep s)
  | .command => commandTurn s
  | .draw => drawTurn s
  | .tick => tickStep s
  | .serial => serialStep s
  | .cycle => cycleStep s
  | .rst => .next (resetBlock s)

/-- The turn to take and the state without it: the oldest of the list, or a free choice (R13). -/
def nextTurn (s : State) : Turn × State :=
  match s.turns with
  | t :: rest => (t, { s with turns := rest })
  | [] => (Config.freeTurn s.choices, { s with choices := s.choices + 1 })

/-- `s` with the words of one command before its last word already taken, and the write of the last word as the host's
next access and the next turn. -/
def loadCommand (words : List Word) (s : State) : State :=
  { s with
    level := .line
    turns := .command :: s.turns
    hostBus := .write cmdAddr (words.getLastD 0) :: s.hostBus
    asmBuf := Vector.ofFn fun k : Fin 5 => words.getD k s.asmBuf[k]
    asmIdx := BitVec.ofNat 3 (words.length - 1)
    busy := false
    ops := [] }

end Sys2Proof.Machine
end

