-- ==== Sys2Proof/Machine/Step.lean ====
section
/-! DEFINITION. One step of the machine, and how an instruction is placed where the next step runs it. -/

namespace Sys2Proof.Machine

/-- One step: one turn, in a well-formed configuration; any other is refused a machine (R7, R295). -/
def step (s : State) : Host.Outcome State Fault Refusal :=
  if s.cfg.wf then takeTurn (nextTurn s).1 (nextTurn s).2 else .fault .configRefused

/-- `s` with one instruction given as the host's writes to CMD, all but the last of its words already taken (the block
fetches nothing, R2; log entry 3). -/
def State.withFetchWord (s : State) (nbits w : Nat) : State := loadCommand (tableWords nbits w) s

end Sys2Proof.Machine
end

