-- ==== Sys2Proof/Safety.lean ====
section
/-! DEFINITION. What holds between steps (R47 to R49 and the ranges of R21 to R36), what a command leaves, and the
temporal partition (R350). -/

namespace Sys2Proof.Machine

/-- The micro-op stays inside the framebuffer and inside its byte (R60, R66). -/
def opInside (cfg : Cfg) (op : MicroOp) : Bool :=
  match op with
  | .rmw a k _ => decide (a < cfg.fbBytes ∧ k < 8)
  | .wr a _ => decide (a < cfg.fbBytes)
  | .rdbit a k => decide (a < cfg.fbBytes ∧ k < 8)
  | .rdb a => decide (a < cfg.fbBytes)
  | .setinit => true
  | .setrd _ => true
  | .err _ => true
  | .skip => true

/-- The micro-op writes the framebuffer (R190, R194). -/
def opWrites (op : MicroOp) : Bool :=
  match op with
  | .rmw _ _ _ => true
  | .wr _ _ => true
  | .rdbit _ _ => false
  | .rdb _ => false
  | .setinit => false
  | .setrd _ => false
  | .err _ => false
  | .skip => false

/-- The index of the scan line now in progress, which CURLINE reads (R41). -/
def currentLine (s : State) : Nat := previousLine s.cfg s.slc.toNat

/-- The counter is in the field (R21) and phase and widths follow from it (R47). -/
abbrev timingInv (s : State) : Prop :=
  s.slc.toNat < s.cfg.lines ∧ s.phase = phaseOf s.cfg (currentLine s) ∧ s.syncwCur = widthCode s.phase ∧
  s.syncwNext = widthCode (phaseOf s.cfg s.slc.toNat)

/-- The serializer's ranges (R28), and it is busy only on the active line it started on (R48, R163). -/
abbrev serialInv (s : State) : Prop :=
  s.serBuf.length = s.cfg.rowBytes + 1 ∧ s.serBuf.getLast? = some 0 ∧
  (s.serBusy = true → s.phase = .activePicture ∧ s.serLine.toNat = currentLine s ∧
    s.serRow = rowOf s.cfg s.serLine.toNat ∧ s.serIdx ≤ s.cfg.rowBytes)

/-- An idle draw unit has no micro-op (R49), a busy one has a command and a micro-op (R35, R190), and every micro-op
stays inside the framebuffer. -/
abbrev drawInv (s : State) : Prop :=
  (s.busy = false → s.ops = []) ∧ (s.busy = true → s.ops ≠ [] ∧ s.curCmd.isSome = true) ∧
  ∀ op ∈ s.ops, opInside s.cfg op = true

/-- The command assembler holds fewer words than its header asks for (R33, R262). -/
abbrev asmInv (s : State) : Prop :=
  s.asmIdx.toNat ≤ 4 ∧ (s.asmIdx.toNat ≠ 0 → s.asmIdx.toNat < asmLength s.asmBuf)

/-- The framebuffer is in its canonical form and lists only bytes that exist (R60). -/
abbrev memInv (s : State) : Prop := s.mem.wf ∧ ∀ c ∈ s.mem.cells, c.1 < s.cfg.fbBytes

/-- The line timer's range (R26); at the cycle level, only a line's first cycle has a TICK (R140), and the serializer, busy
only from the TICK on, keeps its deadlines (R177, R179). -/
abbrev clockInv (s : State) : Prop :=
  s.lt < s.cfg.lineCycles ∧ (s.tickStage = .ticked → s.level = .cycle ∧ s.lt = 0) ∧
  (s.level = .cycle → s.serBusy = true → (s.lt = 0 → s.tickStage = .ticked) ∧ s.lt < s.cfg.lineEnd ∧
    (s.serIdx < s.cfg.rowBytes → s.lt < s.cfg.hStart + 8 * s.serIdx * s.cfg.bitCycles))

/-- At the cycle level, before the first TICK after reset line 0 is about to start and `init` is 0 (R332). -/
abbrev startInv (s : State) : Prop :=
  s.level = .cycle → s.tickStage = .afterReset → s.lt = 0 ∧ s.slc = 0 ∧ s.init = false

/-- What holds of the machine between any two steps. -/
structure BlockInv (s : State) : Prop where
  cfgOk : s.cfg.wf
  timing : timingInv s
  serial : serialInv s
  draw : drawInv s
  asm : asmInv s
  mem : memInv s
  clock : clockInv s
  start : startInv s

/-- What the line level sees of a state: everything but the clock's own fields, the outputs it drives, and the list and the
counter the turns are taken from. -/
def lineView (s : State) : State :=
  { s with
    level := .line
    turns := []
    choices := 0
    lt := 0
    tickStage := .afterReset
    drawAge := 0
    syncN := true
    video := false }

/-- What every command leaves besides its own effect: the draw unit idle again, with no command held (log entry 17) and
its own counter `drawAge` at 0 (log entry 7). -/
def commandDone (s : State) : State := { s with curCmd := none, ops := [], busy := false, drawAge := 0 }

/-- The bytes that a pixel operation at each of `points` in turn finds unwritten, in the order of their first visit: byte
`k` of the list is read as free byte `s.draws + k` (R67). -/
def newBytes (s : State) (points : List (Int × Int)) : List Nat :=
  (((points.filter fun p => inRange s.cfg p.1 p.2).map fun p => byteAddr s.cfg p.1 p.2).filter fun a =>
    !s.mem.written a).eraseDups

/-- The value that the first operation on byte `a` of such a sequence finds (R66, R67). -/
def foundByte (s : State) (points : List (Int × Int)) (a : Nat) : Byte :=
  (s.mem.lookup a).getD (Config.freeByte (s.draws + (newBytes s points).idxOf a))

/-- The coming turn is on an active line: the line in progress, or the one that the cycle it ends starts. -/
abbrev onActiveLine (s : State) : Prop :=
  s.phase = .activePicture ∨
    ((nextTurn s).1 = .cycle ∧ s.lt = 0 ∧ s.tickStage ≠ .ticked ∧ phaseOf s.cfg s.slc.toNat = .activePicture)

/-- The micro-ops of the command that a coming `.command` turn accepts and performs whole, if it does. -/
def comingOps (s : State) : List MicroOp :=
  match s.hostBus with
  | .write a d :: _ =>
    if a = cmdAddr ∧ s.busy = false ∧ s.level = .line then
      match takeWord d s with
      | (t, some c) => planOf c t
      | (_, none) => []
    else []
  | _ => []

/-- The temporal partition is kept in the coming turn (R350): on an active line neither the command that the draw unit
holds nor one that the turn performs whole writes the framebuffer. -/
abbrev partitionKept (s : State) : Prop :=
  onActiveLine s →
    (∀ op ∈ s.ops, opWrites op = false) ∧ ((nextTurn s).1 = .command → ∀ op ∈ comingOps s, opWrites op = false)

end Sys2Proof.Machine
end

