-- ==== Sys2Proof/Certificates/Slice0/Obligations.lean ====
section
/-! DEFINITION. The statements for the provers. Each docstring names the rule of spec/ it comes from. -/

open Sys2Proof Sys2Proof.Machine

/-! ## Encoding -/

/-- Every well-formed command decodes from its own words (R90 to R96, R101). -/
def Obligations.DecodeOfEncode : Prop :=
  ∀ i : Instr, i.wf = true → decode (encode i) = .command i

/-- Words that decode are the words of the command they decode to, and that command is well-formed: each list of words
has one meaning and each command one encoding (R92, R96, R101). -/
def Obligations.EncodeOfDecode : Prop :=
  ∀ (ws : List Word) (i : Instr), decode ws = .command i → i.wf = true ∧ encode i = ws

/-- A list of as many words as its opcode asks for decodes to a command exactly when its header is legal: R94's three
conditions, and no condition on the operand words (R92, R96). -/
def Obligations.LegalHeadersAreTheCommands : Prop :=
  ∀ (h : Word) (operands : List Word), operands.length + 1 = cmdLen (h.extractLsb' 12 4).toNat →
    ((∃ i, decode (h :: operands) = .command i) ↔
      (h.extractLsb' 12 4).toNat ≤ 9 ∧ h.extractLsb' 8 4 = 0#4 ∧
        (h.extractLsb' 0 8 = 0#8 ∨ (h.extractLsb' 12 4).toNat = 2 ∨ (h.extractLsb' 12 4).toNat = 7))

/-- Each header matches at most one row of the opcode map, and exactly one if and only if it is legal (R95). -/
def Obligations.HeaderMatchesOneRow : Prop :=
  ∀ h : Word, (opcodeRows.filter fun r => h &&& r.2 == r.1).length = if headerLegal h then 1 else 0

/-- The operands of every opcode, for every value of their words (R93, R96). -/
def Obligations.DecodesEveryOpcode : Prop :=
  ∀ (a b c d : Word) (p : Byte),
    decode [0x0000#16] = .command .nop ∧
    decode [0x1000#16] = .command .init ∧
    decode [0x20#8 ++ p] = .command (.clear p) ∧
    decode [0x3000#16, a, b] = .command (.pset a.toInt b.toInt) ∧
    decode [0x4000#16, a, b] = .command (.preset a.toInt b.toInt) ∧
    decode [0x5000#16, a, b] = .command (.pflip a.toInt b.toInt) ∧
    decode [0x6000#16, a, b, c, d] = .command (.line a.toInt b.toInt c.toInt d.toInt) ∧
    decode [0x70#8 ++ p, a, b] = .command (.digit p.toNat a.toInt b.toInt) ∧
    decode [0x8000#16, a, b] = .command (.pget a.toInt b.toInt) ∧
    decode [0x9000#16, a] = .command (.rdbyte a.toNat)

/-- The encoding examples of R103: six commands and their written words, each the other's, 0x0100 an illegal NOP and
0xA000 a reserved opcode of length 1. -/
def Obligations.DecodesTheWrittenExamples : Prop :=
  (∀ e ∈ [(Instr.pset 3 2, [0x3000#16, 0x0003, 0x0002]), (.pset (-1) 0, [0x3000, 0xFFFF, 0x0000]),
      (.line 0 0 7 3, [0x6000, 0x0000, 0x0000, 0x0007, 0x0003]), (.digit 5 16 1, [0x7005, 0x0010, 0x0001]),
      (.clear 0xAA, [0x20AA]), (.rdbyte 527, [0x9000, 0x020F])],
    encode e.1 = e.2 ∧ decode e.2 = .command e.1) ∧
  decode [0x0100#16] = .rejected .reservedField ∧ rsvField 0x0100 = 1 ∧ opField 0x0100 = 0 ∧
  decode [0xA000#16] = .rejected .reservedOpcode ∧ cmdLen (opField 0xA000) = 1

/-- The length of a command is the function of its opcode that R91 tabulates. -/
def Obligations.LengthsByOpcode : Prop :=
  (List.range 16).map cmdLen = [1, 1, 1, 3, 3, 3, 5, 3, 3, 2, 1, 1, 1, 1, 1, 1]

/-- The pseudo-instructions (R102), and the one point that `DOT` draws: it plans what `PSET` plans. -/
def Obligations.PseudoInstructionsExpand : Prop :=
  ∀ (s : State) (x y x0 x1 y0 y1 : Int),
    expand .cls = .clear 0 ∧ expand (.plot x y) = .pset x y ∧ expand (.hline x0 x1 y) = .line x0 y x1 y ∧
    expand (.vline x y0 y1) = .line x y0 x y1 ∧ expand (.dot x y) = .line x y x y ∧
    bresenhamPoints x y x y = [(x, y)] ∧
    planOf (.legal (expand (.dot x y))) s = planOf (.legal (.pset x y)) s

/-! ## What each command does

`commandDone s` is `s` with the draw unit idle. That it holds no command then (`cur_cmd`, which R35 gives no meaning while
`busy = 0`) is log entry 17, and that the model's own counter `drawAge` is 0 is log entry 7. -/

/-- NOP (R196) completes on an idle draw unit: one SKIP, and every register and byte as it was. What `cur_cmd` and
`drawAge` hold when the draw unit is idle again is the model's choice (log entries 7 and 17). -/
def Obligations.NopLeavesEverything : Prop :=
  ∀ s : State, s.busy = false →
    encode .nop = [0x0000#16] ∧ planOf (.legal .nop) s = [.skip] ∧
    exec .nop s = .next (commandDone s)

/-- INIT (R200) completes on an idle draw unit: it sets `init` and changes nothing else, whatever `init` was. What
`cur_cmd` and `drawAge` hold when the draw unit is idle again is the model's choice (log entries 7 and 17). -/
def Obligations.InitSetsTheFlag : Prop :=
  ∀ s : State, s.busy = false →
    encode .init = [0x1000#16] ∧ planOf (.legal .init) s = [.setinit] ∧
    exec .init s = .next { commandDone s with init := true }

/-- CLEAR (R204) completes on an idle draw unit. Initialized, every framebuffer byte reads `p`, an active line sets
`overlap`, and nothing else changes; before INIT nothing changes. What `cur_cmd` and `drawAge` hold when the draw unit
is idle again is the model's choice (log entries 7 and 17). -/
def Obligations.ClearFillsTheFramebuffer : Prop :=
  ∀ (s : State) (p : Byte), s.cfg.wf → s.busy = false →
    (s.init = true → ∃ m : Memory,
      exec (.clear p) s = .next { commandDone s with
        mem := m
        overlap := s.overlap || decide (s.phase = .activePicture) } ∧
      ∀ a, m.lookup a = if a < s.cfg.fbBytes then some p else s.mem.lookup a) ∧
    (s.init = false → exec (.clear p) s = .next (commandDone s))

/-- PSET, PRESET and PFLIP (R210, R213, R216) complete on an idle draw unit. On an in-range pixel of an initialized
buffer they write the pixel's byte back with its one bit set, cleared or flipped (from a free byte if the byte was
unwritten), set `overlap` on an active line, and change no other byte and no other field; on every other pixel and
before INIT nothing changes. What `cur_cmd` and `drawAge` hold when the draw unit is idle again is the model's choice
(log entries 7 and 17). -/
def Obligations.PixelCommandsChangeOneBit : Prop :=
  ∀ (s : State) (x y : Int), s.busy = false →
    ∀ e ∈ [(Instr.pset x y, fun _ : Bool => true), (.preset x y, fun _ => false), (.pflip x y, fun b => !b)],
      ((s.init = true ∧ 0 ≤ x ∧ x ≤ (s.cfg.width : Int) - 1 ∧ 0 ≤ y ∧ y ≤ (s.cfg.height : Int) - 1) →
        ∃ (m : Memory) (w : Byte),
          exec e.1 s = .next { commandDone s with
            mem := m
            overlap := s.overlap || decide (s.phase = .activePicture)
            draws := if (s.mem.lookup (byteAddr s.cfg x y)).isSome then s.draws else s.draws + 1 } ∧
          m.lookup (byteAddr s.cfg x y) = some w ∧
          (∀ j < 8, w.getLsbD j =
            let old := ((s.mem.lookup (byteAddr s.cfg x y)).getD (Config.freeByte s.draws)).getLsbD j
            if j = bitPos x then e.2 old else old) ∧
          ∀ b, b ≠ byteAddr s.cfg x y → m.lookup b = s.mem.lookup b) ∧
      ((s.init = false ∨ ¬(0 ≤ x ∧ x ≤ (s.cfg.width : Int) - 1 ∧ 0 ≤ y ∧ y ≤ (s.cfg.height : Int) - 1)) →
        exec e.1 s = .next (commandDone s))

/-- The pixel's byte and bit are those of R61 and R63, and an in-range pixel's byte exists. -/
def Obligations.PixelAddressing : Prop :=
  ∀ (cfg : Cfg) (x y : Int), 0 ≤ x → x ≤ (cfg.width : Int) - 1 → 0 ≤ y → y ≤ (cfg.height : Int) - 1 →
    (byteAddr cfg x y : Int) = y * (((cfg.width + 7) / 8 : Nat) : Int) + x / 8 ∧
    (bitPos x : Int) = 7 - x % 8 ∧ byteAddr cfg x y < cfg.rowBytes * cfg.height

/-- LINE (R220, R223) completes on an idle draw unit. Initialized, every byte that holds an in-range point of
`BresenhamPoints` ends written: the bits of its points set, its other bits as the command found the byte (its written value,
or the free byte of its first read, R67), and each such byte that was unwritten is one free byte read. Every other byte is
as it was, an active line sets `overlap` when there is a point to write, and nothing else changes; before INIT nothing
changes. What `cur_cmd` and `drawAge` hold when the draw unit is idle again is the model's choice (log entries 7 and 17). -/
def Obligations.LineSetsItsPoints : Prop :=
  ∀ (s : State) (x0 y0 x1 y1 : Int), s.busy = false →
    (s.init = true → ∃ m : Memory,
      exec (.line x0 y0 x1 y1) s = .next { commandDone s with
        mem := m
        draws := s.draws + (newBytes s (bresenhamPoints x0 y0 x1 y1)).length
        overlap := s.overlap || (decide (s.phase = .activePicture) &&
          (bresenhamPoints x0 y0 x1 y1).any fun p => inRange s.cfg p.1 p.2) } ∧
      (∀ a, (∀ p ∈ bresenhamPoints x0 y0 x1 y1, inRange s.cfg p.1 p.2 = true → byteAddr s.cfg p.1 p.2 ≠ a) →
        m.lookup a = s.mem.lookup a) ∧
      ∀ q ∈ bresenhamPoints x0 y0 x1 y1, inRange s.cfg q.1 q.2 = true →
        ∃ w, m.lookup (byteAddr s.cfg q.1 q.2) = some w ∧ ∀ j < 8, w.getLsbD j =
          ((foundByte s (bresenhamPoints x0 y0 x1 y1) (byteAddr s.cfg q.1 q.2)).getLsbD j ||
            (bresenhamPoints x0 y0 x1 y1).any fun p =>
              inRange s.cfg p.1 p.2 && decide (byteAddr s.cfg p.1 p.2 = byteAddr s.cfg q.1 q.2 ∧ bitPos p.1 = j))) ∧
    (s.init = false → exec (.line x0 y0 x1 y1) s = .next (commandDone s))

/-- `BresenhamPoints` starts at the first endpoint, ends at the second, and has `max(dx, dy) + 1` points, no two of
them equal; successive points differ by at most 1 in each coordinate (R222 items 1 to 3). -/
def Obligations.BresenhamReachesItsEndpoint : Prop :=
  ∀ x0 y0 x1 y1 : Int,
    let P := bresenhamPoints x0 y0 x1 y1
    P.length = max (x1 - x0).natAbs (y1 - y0).natAbs + 1 ∧
    P.head? = some (x0, y0) ∧ P.getLast? = some (x1, y1) ∧ P.Nodup ∧
    ∀ k p q, P[k]? = some p → P[k + 1]? = some q → (q.1 - p.1).natAbs ≤ 1 ∧ (q.2 - p.2).natAbs ≤ 1 ∧ p ≠ q

/-- `BresenhamPoints` advances by its step sign in the dominant axis at every point (R222 item 4), x when `dx > dy` and y
when `dy > dx`, both when they are equal; and in the other axis point `k` is as far as the error term of R221 makes it, with
`M` and `m` the larger and the smaller of `dx` and `dy`: by `(k * m + M - 1 - M / 2) / M` steps. -/
def Obligations.BresenhamDominantAxis : Prop :=
  ∀ (x0 y0 x1 y1 : Int) (k : Nat) (p : Int × Int), (bresenhamPoints x0 y0 x1 y1)[k]? = some p →
    let dx := (x1 - x0).natAbs
    let dy := (y1 - y0).natAbs
    let minor := fun M m : Nat => (((k * m + M - 1 - M / 2) / M : Nat) : Int)
    (dy ≤ dx → p.1 = (if x0 < x1 then x0 + k else x0 - k) ∧
      (0 < dx → p.2 = if y0 < y1 then y0 + minor dx dy else y0 - minor dx dy)) ∧
    (dx ≤ dy → p.2 = (if y0 < y1 then y0 + k else y0 - k) ∧
      (0 < dy → p.1 = if x0 < x1 then x0 + minor dy dx else x0 - minor dy dx))

/-- DIGIT (R230, R231) completes on an idle draw unit. For a digit 0 to 9 at an in-range place of an initialized buffer
each row of the glyph (R69) that lies in the buffer replaces its whole byte of column `x div 8`, an active line sets `overlap`, and
nothing else changes; for any other index or place, and before INIT, nothing changes. What `cur_cmd` and `drawAge` hold
when the draw unit is idle again is the model's choice (log entries 7 and 17). -/
def Obligations.DigitReplacesItsBytes : Prop :=
  ∀ (s : State) (g : Nat) (x y : Int), s.busy = false →
    (∀ hg : g < 10, s.init = true → inRange s.cfg x y = true → ∃ m : Memory,
      exec (.digit g x y) s = .next { commandDone s with
        mem := m
        overlap := s.overlap || decide (s.phase = .activePicture) } ∧
      (∀ (r : Nat) (hr : r < 7), y.toNat + r < s.cfg.height →
        m.lookup ((y.toNat + r) * s.cfg.rowBytes + x.toNat / 8) = some s.cfg.glyphRom[g][r]) ∧
      ∀ a, (∀ r < 7, y.toNat + r < s.cfg.height → a ≠ (y.toNat + r) * s.cfg.rowBytes + x.toNat / 8) →
        m.lookup a = s.mem.lookup a) ∧
    (¬(s.init = true ∧ g ≤ 9 ∧ inRange s.cfg x y = true) →
      exec (.digit g x y) s = .next (commandDone s))

/-- PGET (R240) completes on an idle draw unit, initialized or not: `rdata` is the pixel, zero-extended, of the byte's
value (a free byte if it is unwritten), or 0 out of range, and nothing else changes. What `cur_cmd` and `drawAge` hold
when the draw unit is idle again is the model's choice (log entries 7 and 17). -/
def Obligations.PgetReadsOnePixel : Prop :=
  ∀ (s : State) (x y : Int), s.busy = false →
    ((0 ≤ x ∧ x ≤ (s.cfg.width : Int) - 1 ∧ 0 ≤ y ∧ y ≤ (s.cfg.height : Int) - 1) →
      ∃ v : Byte,
        exec (.pget x y) s = .next { commandDone s with
          rdata := v
          draws := if (s.mem.lookup (byteAddr s.cfg x y)).isSome then s.draws else s.draws + 1 } ∧
        v.toNat = (((s.mem.lookup (byteAddr s.cfg x y)).getD (Config.freeByte s.draws)).getLsbD (bitPos x)).toNat) ∧
    (¬(0 ≤ x ∧ x ≤ (s.cfg.width : Int) - 1 ∧ 0 ≤ y ∧ y ≤ (s.cfg.height : Int) - 1) →
      exec (.pget x y) s = .next { commandDone s with rdata := 0 })

/-- RDBYTE (R243) completes on an idle draw unit, initialized or not: `rdata` is the byte (a free byte if it is
unwritten), or 0 from `FB_BYTES` on, and nothing else changes. What `cur_cmd` and `drawAge` hold when the draw unit is
idle again is the model's choice (log entries 7 and 17). -/
def Obligations.RdbyteReadsOneByte : Prop :=
  ∀ (s : State) (i : Nat), s.busy = false →
    (i < s.cfg.fbBytes →
      exec (.rdbyte i) s = .next { commandDone s with
        rdata := (s.mem.lookup i).getD (Config.freeByte s.draws)
        draws := if (s.mem.lookup i).isSome then s.draws else s.draws + 1 }) ∧
    (s.cfg.fbBytes ≤ i → exec (.rdbyte i) s = .next { commandDone s with rdata := 0 })

/-- The laws of the pixel primitives by read-back (R250): set then read gives 1, clear then read gives 0, and two flips
leave a written byte as it was. -/
def Obligations.PixelLawsByReadBack : Prop :=
  ∀ (s : State) (x y : Int), s.busy = false → s.init = true → inRange s.cfg x y = true →
    (∃ t u, exec (.pset x y) s = .next t ∧ exec (.pget x y) t = .next u ∧ u.rdata = 1) ∧
    (∃ t u, exec (.preset x y) s = .next t ∧ exec (.pget x y) t = .next u ∧ u.rdata = 0) ∧
    (∃ t u, exec (.pflip x y) s = .next t ∧ exec (.pflip x y) t = .next u ∧
      ∀ v, s.mem.lookup (byteAddr s.cfg x y) = some v → u.mem.lookup (byteAddr s.cfg x y) = some v)

/-- Before INIT every drawing command leaves the framebuffer and every flag unchanged, and `busy` lasts one draw step
(R193, R252). What `cur_cmd` and `drawAge` hold afterwards is left open. -/
def Obligations.DrawingBeforeInitDoesNothing : Prop :=
  ∀ (s : State) (p : Byte) (g : Nat) (x y x1 y1 : Int), s.busy = false → s.init = false →
    ∀ i ∈ [Instr.clear p, .pset x y, .preset x y, .pflip x y, .line x y x1 y1, .digit g x y],
      planOf (.legal i) s = [.skip] ∧
      ∃ (c : Option Command) (n : Nat),
        exec i s = .next { s with curCmd := c, ops := [], busy := false, drawAge := n }

/-! ## The draw unit -/

/-- A whole command is its acceptance followed by one draw step per micro-op (R190): the meaning of every command and
the draw unit's single steps give the same state. -/
def Obligations.CommandIsItsDrawSteps : Prop :=
  ∀ (i : Instr) (s : State), s.cfg.wf → s.busy = false →
    exec i s = drawSteps (planOf (.legal i) s).length (acceptCommand (.legal i) s)

/-- A command given to a draw unit that holds another runs after the micro-ops the other still has. That `exec` at a busy
state performs them first is the model's choice (DEDUCED, log entry 13): the spec has no such operation, for a CMD write
waits with no step while `busy = 1` (R263); the order is the one R75 gives to commands. -/
def Obligations.CommandWaitsForThePending : Prop :=
  ∀ (i : Instr) (s : State), BlockInv s →
    ∃ u, drawSteps s.ops.length s = .next u ∧ u.busy = false ∧ u.ops = [] ∧ exec i s = exec i u

/-- While an accepted command has micro-ops left, `busy` is 1 and `rdata` is the value before the command (R267); once its
last micro-op is performed, `busy` is 0, no micro-op is left, and `rdata` is the result of a PGET or RDBYTE and otherwise
still the earlier value (R78, R190). -/
def Obligations.RdataIsNewWhenNotBusy : Prop :=
  ∀ (c : Command) (s : State), s.cfg.wf →
    (∀ k < (planOf c s).length, ∃ t, drawSteps k (acceptCommand c s) = .next t ∧ t.busy = true ∧
      t.ops = (planOf c s).drop k ∧ t.rdata = s.rdata) ∧
    ∃ t, drawSteps (planOf c s).length (acceptCommand c s) = .next t ∧ t.busy = false ∧ t.ops = [] ∧
      (∀ x y, c = .legal (.pget x y) → t.rdata.toNat =
        if inRange s.cfg x y then
          (((s.mem.lookup (byteAddr s.cfg x y)).getD (Config.freeByte s.draws)).getLsbD (bitPos x)).toNat
        else 0) ∧
      (∀ i, c = .legal (.rdbyte i) → t.rdata =
        if i < s.cfg.fbBytes then (s.mem.lookup i).getD (Config.freeByte s.draws) else 0) ∧
      ((∀ x y, c ≠ .legal (.pget x y)) → (∀ i, c ≠ .legal (.rdbyte i)) → t.rdata = s.rdata)

/-- No command, legal or illegal, plans an access outside the framebuffer or a bit outside its byte (R60, R66). -/
def Obligations.PlansStayInside : Prop :=
  ∀ (c : Command) (s : State), ∀ op ∈ planOf c s, opInside s.cfg op = true

/-- The number of micro-ops of every command (R356), never 0 (R190). -/
def Obligations.MicroOpCounts : Prop :=
  ∀ (s : State) (p : Byte) (g i : Nat) (x y x1 y1 : Int) (h : Word), s.cfg.wf →
    (planOf (.legal .nop) s).length = 1 ∧ (planOf (.legal .init) s).length = 1 ∧
    (planOf (.illegal h) s).length = 1 ∧
    (planOf (.legal (.clear p)) s).length = (if s.init then s.cfg.fbBytes else 1) ∧
    (planOf (.legal (.pset x y)) s).length = 1 ∧ (planOf (.legal (.preset x y)) s).length = 1 ∧
    (planOf (.legal (.pflip x y)) s).length = 1 ∧ (planOf (.legal (.pget x y)) s).length = 1 ∧
    (planOf (.legal (.rdbyte i)) s).length = 1 ∧
    (planOf (.legal (.line x y x1 y1)) s).length =
      (if s.init then max 1 ((bresenhamPoints x y x1 y1).countP fun q => inRange s.cfg q.1 q.2) else 1) ∧
    (planOf (.legal (.digit g x y)) s).length =
      (if s.init = true ∧ g ≤ 9 ∧ inRange s.cfg x y = true then min 7 (s.cfg.height - y.toNat) else 1) ∧
    ∀ c, planOf c s ≠ []

/-- `Overlap` is raised by exactly the micro-ops that write the framebuffer during an active line, and the write is
performed: the byte then holds the plan's value, or the changed value of the byte read (R293, R194, R190). -/
def Obligations.OverlapExactlyOnActiveWrites : Prop :=
  ∀ (op : MicroOp) (s t : State), performOp op s = .next t →
    t.overlap = (s.overlap || (opWrites op && decide (s.phase = .activePicture))) ∧
    (∀ a v, op = .wr a v → t.mem.lookup a = some v) ∧
    ∀ a k kind, op = .rmw a k kind →
      t.mem.lookup a = some (pixelByte kind k ((s.mem.lookup a).getD (Config.freeByte s.draws)))

/-- A byte reads as its last write and a write changes no other byte (R66); an unwritten byte reads as the next free
byte, a new one each time (R67, log entry 2). -/
def Obligations.FramebufferReadAfterWrite : Prop :=
  ∀ (s : State) (a b : Nat) (v : Byte),
    readByte a (storeByte a v s) = (v, storeByte a v s) ∧
    (b ≠ a → (storeByte a v s).mem.lookup b = s.mem.lookup b) ∧ (storeByte a v s).mem.written a = true ∧
    (s.mem.written a = false → readByte a s = (Config.freeByte s.draws, { s with draws := s.draws + 1 }))

/-! ## Steps of the host and of the draw unit -/

/-- A step runs the decoded command: when the host's next access is the last word of a command whose words decode to
`i`, and the turn is a whole command's (the model's composite turn, log entries 1 and 3), the step is `exec i` of the
state in which the assembler has taken that word (R262, R190). That the assembler keeps the words of a command it has handed
on is log entry 18. -/
def Obligations.StepRunsTheDecodedCommand : Prop :=
  ∀ (s : State) (w : Word) (i : Instr) (ts : List Turn) (rest : List HostAccess),
    s.cfg.wf → s.level = .line → s.busy = false → s.turns = .command :: ts → s.hostBus = .write 5 w :: rest →
    s.asmIdx.toNat + 1 = asmLength (asmStore w s) →
    decode ((asmStore w s).toList.take (asmLength (asmStore w s))) = .command i →
    step s = exec i { s with turns := ts, hostBus := rest, asmBuf := asmStore w s, asmIdx := 0 }

/-- The same words with a host turn are accepted and planned, and nothing of the command is performed yet (R190, R262).
The counter `drawAge`, which starts anew, is the model's own (log entry 7); that the assembler keeps the words of a command
it has handed on is the model's choice (log entry 18). -/
def Obligations.LastWordIsAccepted : Prop :=
  ∀ (s : State) (w : Word) (ts : List Turn) (rest : List HostAccess),
    s.cfg.wf → s.busy = false → s.turns = .host :: ts → s.hostBus = .write 5 w :: rest →
    s.asmIdx.toNat + 1 = asmLength (asmStore w s) →
    ∃ c, c = commandOf ((asmStore w s).toList.take (asmLength (asmStore w s))) ∧
      step s = .next { s with
        turns := ts
        hostBus := rest
        asmBuf := asmStore w s
        asmIdx := 0
        curCmd := some c
        ops := planOf c { s with turns := ts, hostBus := rest, asmBuf := asmStore w s, asmIdx := 0 }
        busy := true
        drawAge := 0 }

/-- The words of any command, written in order to an idle block with an empty assembler, are framed by the opcode of
their header alone and end as that command, accepted (R91, R97, R99, R262). -/
def Obligations.WordsAreFramedByTheOpcode : Prop :=
  ∀ (s : State) (h : Word) (operands : List Word) (ts : List Turn) (rest : List HostAccess),
    s.cfg.wf → s.busy = false → s.asmIdx = 0 → operands.length + 1 = cmdLen (opField h) →
    s.turns = List.replicate (operands.length + 1) .host ++ ts →
    s.hostBus = (h :: operands).map (.write 5) ++ rest →
    ∃ buf, Host.Core.run Sys2Proof.core (operands.length + 1) s =
      .next (acceptCommand (commandOf (h :: operands))
        { s with turns := ts, hostBus := rest, asmBuf := buf, asmIdx := 0 })

/-- An illegal command sets `cmd_err` and does nothing else, and no copy of its header is kept (R291): whatever else
`cur_cmd` holds afterwards is left open (R35). The turn is the composite one of log entry 1; the counter `drawAge` is the
model's own (log entry 7), and that the assembler keeps the words is the model's choice (log entry 18). -/
def Obligations.IllegalCommandSetsCmdErr : Prop :=
  ∀ (s : State) (w : Word) (ts : List Turn) (rest : List HostAccess),
    s.cfg.wf → s.level = .line → s.busy = false → s.turns = .command :: ts → s.hostBus = .write 5 w :: rest →
    s.asmIdx.toNat + 1 = asmLength (asmStore w s) → headerLegal ((asmStore w s).getD 0 0) = false →
    ∃ c, c ≠ some (.illegal ((asmStore w s).getD 0 0)) ∧
      step s = .next { commandDone s with
        turns := ts
        hostBus := rest
        asmBuf := asmStore w s
        asmIdx := 0
        curCmd := c
        cmdErr := true }

/-- A CMD write while a command runs has no step: the access stays where it is and nothing changes (R263). -/
def Obligations.CmdWriteWaitsWhileBusy : Prop :=
  ∀ (s : State) (w : Word) (t : Turn) (ts : List Turn) (rest : List HostAccess),
    s.cfg.wf → s.busy = true → s.turns = t :: ts → t = .host ∨ t = .command → s.hostBus = .write 5 w :: rest →
    step s = .next { s with turns := ts }

/-- A register read returns the register's word and changes nothing else (R260, R261). -/
def Obligations.RegisterReadHasNoSideEffect : Prop :=
  ∀ (s : State) (a : BitVec 3) (ts : List Turn) (rest : List HostAccess),
    s.cfg.wf → s.turns = .host :: ts → s.hostBus = .read a :: rest →
    step s = .next { s with
      turns := ts
      hostBus := rest
      readLog := s.readLog ++ [{ addr := a, data := regRead a s }] }

/-- The word of every register, field by field (R41, R42, R261), with the codes of the phases (R24) and of the width classes
(R25) written out. -/
def Obligations.RegisterWords : Prop :=
  ∀ s : State,
    ((regRead 0 s).extractLsb' 0 2 =
        (match s.phase with | .equalizing => 0b00#2 | .verticalSync => 0b01#2 | .activePicture => 0b10#2 | .blank => 0b11#2) ∧
      (regRead 0 s).extractLsb' 2 2 = (match s.syncwNext with | .short => 0b00#2 | .long => 0b01#2 | .eq => 0b10#2) ∧
      (regRead 0 s).getLsbD 4 = s.init ∧ (regRead 0 s).getLsbD 5 = s.busy ∧
      (regRead 0 s).getLsbD 6 = decide (s.asmIdx ≠ 0) ∧ (regRead 0 s).getLsbD 7 = s.serBusy ∧
      (regRead 0 s).getLsbD 8 = s.cmdErr ∧ (regRead 0 s).getLsbD 9 = s.overlap ∧
      (regRead 0 s).extractLsb' 10 6 = 0) ∧
    (regRead 1 s).toNat = s.slc.toNat ∧
    (s.cfg.lines ≤ 512 → 0 < s.cfg.lines →
      (regRead 2 s).toNat = (s.slc.toNat + s.cfg.lines - 1) % s.cfg.lines) ∧
    (regRead 3 s).toNat = s.irqPend.toNat ∧ (regRead 4 s).toNat = s.irqEn.toNat ∧ regRead 5 s = 0 ∧
    (regRead 6 s).toNat = s.rdata.toNat ∧ regRead 7 s = 0

/-- Writes of the other registers (R43 to R45, R264 to R266): IRQ_PEND clears the bits written as 1, IRQ_EN takes the two low
bits, every other register but CMD ignores the write. In the cycle of a TICK a write of IRQ_PEND stands before the TICK
(R304, R345); that a host turn after the TICK passes, so that the write is the next cycle's, is the model's choice
(`tickStage`, log entry 9). -/
def Obligations.RegisterWrites : Prop :=
  ∀ (s : State) (a : BitVec 3) (d : Word) (ts : List Turn) (rest : List HostAccess),
    s.cfg.wf → s.turns = .host :: ts → s.hostBus = .write a d :: rest →
    (a = 3 → s.tickStage ≠ .ticked →
      ∃ p : BitVec 2, step s = .next { s with turns := ts, hostBus := rest, irqPend := p } ∧
        ∀ k < 2, p.getLsbD k = (s.irqPend.getLsbD k && !d.getLsbD k)) ∧
    (a = 3 → s.tickStage = .ticked → step s = .next { s with turns := ts }) ∧
    (a = 4 → ∃ e : BitVec 2, step s = .next { s with turns := ts, hostBus := rest, irqEn := e } ∧
      ∀ k < 2, e.getLsbD k = d.getLsbD k) ∧
    (a ∈ [0, 1, 2, 6, 7] → step s = .next { s with turns := ts, hostBus := rest })

/-- The interrupt output is high exactly when an enabled event is pending (R300). -/
def Obligations.IrqIsTheEnabledPending : Prop :=
  ∀ s : State, irq s = true ↔ ∃ k < 2, s.irqPend.getLsbD k = true ∧ s.irqEn.getLsbD k = true

/-- No host turn reaches the timing controller, the serializer, `init`, `rdata` or the sticky flags (R50), nor the
framebuffer, except through a command. -/
def Obligations.HostTurnReachesNoTiming : Prop :=
  ∀ (s t : State) (ts : List Turn), s.turns = .host :: ts → step s = .next t →
    t.slc = s.slc ∧ t.phase = s.phase ∧ t.syncwNext = s.syncwNext ∧ t.syncwCur = s.syncwCur ∧ t.lt = s.lt ∧
    t.serBusy = s.serBusy ∧ t.serLine = s.serLine ∧ t.serRow = s.serRow ∧ t.serIdx = s.serIdx ∧
    t.serBlank = s.serBlank ∧ t.serBuf = s.serBuf ∧ t.init = s.init ∧ t.rdata = s.rdata ∧
    t.cmdErr = s.cmdErr ∧ t.overlap = s.overlap ∧ t.mem = s.mem ∧ t.cfg = s.cfg

/-! ## The timing controller and the serializer -/

/-- TICK (R125, R163): the next state for every line of the field. On a line that is not active the serializer's registers,
any value between lines (R28), are left open, and so are the bytes of `ser_buf` not read yet. -/
def Obligations.TickStartsTheNextLine : Prop :=
  ∀ (s : State) (ts : List Turn), s.cfg.wf → s.level = .line → s.serBusy = false →
    s.slc.toNat < s.cfg.lines → s.turns = .tick :: ts →
    ∃ t, step s = .next t ∧
      t = { s with
        turns := ts
        phase := phaseOf s.cfg s.slc.toNat
        syncwCur := s.syncwNext
        syncwNext := widthCode (phaseOf s.cfg ((s.slc.toNat + 1) % s.cfg.lines))
        irqPend := s.irqPend ||| (if s.slc.toNat = s.cfg.active then 0b11 else 0b01)
        serBusy := decide (s.slc.toNat < s.cfg.active)
        serLine := t.serLine
        serRow := t.serRow
        serIdx := t.serIdx
        serBlank := t.serBlank
        serBuf := t.serBuf
        slc := BitVec.ofNat 9 ((s.slc.toNat + 1) % s.cfg.lines) } ∧
      (s.slc.toNat < s.cfg.active →
        t.serLine = s.slc ∧ t.serRow = s.slc.toNat / s.cfg.lineRepeat ∧ t.serIdx = 0 ∧ t.serBlank = !s.init)

/-- No TICK while the serializer's line is not drained (R126), and a counter outside the field faults by name and gives no
phase (R128). -/
def Obligations.TickWaitsOrFaults : Prop :=
  ∀ (s : State) (ts : List Turn), s.cfg.wf → s.level = .line → s.turns = .tick :: ts →
    (s.serBusy = true → step s = .next { s with turns := ts }) ∧
    (s.serBusy = false → s.cfg.lines ≤ s.slc.toNat → step s = .fault .slcOutOfRange)

/-- A configuration that breaks R7 has no machine: every step is refused with the fault `ConfigRefused` (R7, R295). The
items of R7 are written out. -/
def Obligations.IllFormedConfigIsRefused : Prop :=
  ∀ s : State,
    ¬((1 ≤ s.cfg.width ∧ s.cfg.width ≤ 32767 ∧ 1 ≤ s.cfg.height ∧ s.cfg.height ≤ 32767) ∧
      (s.cfg.width + 7) / 8 * s.cfg.height ≤ 65536 ∧
      (1 ≤ s.cfg.lineRepeat ∧ s.cfg.active = s.cfg.height * s.cfg.lineRepeat) ∧
      (1 ≤ s.cfg.active ∧ 1 ≤ s.cfg.vsync ∧ s.cfg.active < s.cfg.lines) ∧ s.cfg.lines ≤ 512 ∧
      (1 ≤ s.cfg.bitCycles ∧ 1 ≤ s.cfg.syncEq ∧ s.cfg.syncEq < s.cfg.lineCycles ∧ 1 ≤ s.cfg.syncShort ∧
        s.cfg.syncShort ≤ s.cfg.hStart ∧ s.cfg.syncLong < s.cfg.lineCycles ∧ 1 ≤ s.cfg.syncLong) ∧
      s.cfg.hStart + 8 * ((s.cfg.width + 7) / 8 + 1) * s.cfg.bitCycles ≤ s.cfg.lineCycles ∧
      ∀ g ∈ s.cfg.glyphRom.toList, ∀ b ∈ g.toList, b.getLsbD 0 = false) →
    step s = .fault .configRefused

/-- The six regions of the field and their order (R120, R121), for every configuration: active picture, post-render blank,
equalizing, vertical sync, equalizing, pre-render blank, each as many lines as the configuration gives it, to the end of the
field; and the width class of each phase (R122). -/
def Obligations.PhaseRegions : Prop :=
  (∀ (cfg : Cfg) (c : Nat),
    let eq1 := cfg.active + cfg.postBlank
    let vs := eq1 + cfg.eqBefore
    let eq2 := vs + cfg.vsync
    let pre := eq2 + cfg.eqAfter
    cfg.lines = pre + cfg.preBlank ∧
    (c < cfg.active → phaseOf cfg c = .activePicture) ∧ (cfg.active ≤ c → c < eq1 → phaseOf cfg c = .blank) ∧
    (eq1 ≤ c → c < vs → phaseOf cfg c = .equalizing) ∧ (vs ≤ c → c < eq2 → phaseOf cfg c = .verticalSync) ∧
    (eq2 ≤ c → c < pre → phaseOf cfg c = .equalizing) ∧ (pre ≤ c → c < cfg.lines → phaseOf cfg c = .blank)) ∧
  widthCode .activePicture = .short ∧ widthCode .blank = .short ∧ widthCode .verticalSync = .long ∧
  widthCode .equalizing = .eq

/-- The canonical field (R123): active lines 0 to 239, blank 240 to 244, vertical sync 245 to 247, blank 248 to 261,
with a long pulse on the vertical-sync lines and a short one on the others. -/
def Obligations.CanonicalField : Prop :=
  ∀ c < 262,
    (c ≤ 239 → phaseOf Config.canonical c = .activePicture) ∧
    (240 ≤ c → c ≤ 244 → phaseOf Config.canonical c = .blank) ∧
    (245 ≤ c → c ≤ 247 → phaseOf Config.canonical c = .verticalSync) ∧
    (248 ≤ c → phaseOf Config.canonical c = .blank) ∧
    widthCode (phaseOf Config.canonical c) = if 245 ≤ c ∧ c ≤ 247 then .long else .short

/-- Each logical row is shown on exactly its `K` consecutive active lines, and every active line shows a row of the
buffer (R161, R162). -/
def Obligations.RowsRepeatKTimes : Prop :=
  ∀ (cfg : Cfg), cfg.wf →
    (∀ c < cfg.active, rowOf cfg c < cfg.height) ∧
    ∀ r < cfg.height, ∀ c, rowOf cfg c = r ↔ r * cfg.lineRepeat ≤ c ∧ c ≤ r * cfg.lineRepeat + cfg.lineRepeat - 1

/-- A started line that no other agent interrupts emits exactly one record (R165 to R168): its row's written bytes, or
zeros if `init` was 0 at its TICK (R167), and the pad byte. Nothing else but the serializer's own registers changes; what
`ser_idx` and `ser_buf` hold after the line is the model's choice (log entry 18). -/
def Obligations.LineRecordIsItsRow : Prop :=
  ∀ (s : State) (row : List Byte) (ts : List Turn), BlockInv s → s.level = .line → s.serBusy = true → s.serIdx = 0 →
    row.length = s.cfg.rowBytes →
    (s.serBlank = true → row = List.replicate s.cfg.rowBytes 0) →
    (s.serBlank = false → ∀ k < s.cfg.rowBytes, s.mem.lookup (s.serRow * s.cfg.rowBytes + k) = row[k]?) →
    s.turns = List.replicate (s.cfg.rowBytes + 1) .serial ++ ts →
    Host.Core.run Sys2Proof.core (s.cfg.rowBytes + 1) s = .next { s with
      turns := ts
      serBusy := false
      serIdx := s.cfg.rowBytes
      serBuf := row ++ [0]
      emitted := s.emitted ++ [{ line := s.serLine, bytes := row ++ [0] }] }

/-! ## The cycle level -/

/-- From reset, whatever accesses the host makes and whenever the agents take their turns, no step stops, the line timer
and the scan-line counter follow the clock alone, and `sync_n` is R142's waveform at every cycle `n`: low in a line's first
cycles, as many as R141 and R122 give the line's phase (R129, R140, R334), in every well-formed configuration. -/
def Obligations.SyncFollowsTheClockAlone : Prop :=
  ∀ (cfg : Cfg) (bus : List HostAccess) (ts : List Turn) (n : Nat), cfg.wf → .rst ∉ ts → ts.count .cycle = n →
    ∃ s, Host.Core.run Sys2Proof.core (ts.length + 1)
        { State.afterReset cfg with level := .cycle, hostBus := bus, turns := ts ++ [.cycle] } = .next s ∧
      s.lt = (n + 1) % cfg.lineCycles ∧
      s.slc.toNat = (n / cfg.lineCycles + 1) % cfg.lines ∧
      s.phase = phaseOf cfg (n / cfg.lineCycles % cfg.lines) ∧
      s.syncN = syncNAt cfg n ∧
      (s.syncN = false ↔ n % cfg.lineCycles <
        (match phaseOf cfg (n / cfg.lineCycles % cfg.lines) with
        | .activePicture => cfg.syncShort
        | .blank => cfg.syncShort
        | .verticalSync => cfg.syncLong
        | .equalizing => cfg.syncEq))

/-- On an active line on which nothing is drawn, `video` at offset `u` is the bit that R176 gives of the row, or 0 all along
if the line's TICK sees `init = 0` (R167), whenever its TICK and the serializer's reads stand in their cycles (R177), and the
line's record is emitted when its last bit ends (R179). -/
def Obligations.VideoShowsTheRow : Prop :=
  ∀ (s : State) (row : List Byte) (ts : List Turn) (u : Nat),
    BlockInv s → s.level = .cycle → s.lt = 0 → s.tickStage ≠ .ticked → s.slc.toNat < s.cfg.active → s.busy = false →
    row.length = s.cfg.rowBytes →
    (s.init = false → row = List.replicate s.cfg.rowBytes 0) →
    (s.init = true → ∀ k < s.cfg.rowBytes,
      s.mem.lookup (s.slc.toNat / s.cfg.lineRepeat * s.cfg.rowBytes + k) = row[k]?) →
    s.turns = ts → (∀ t ∈ ts, t = .cycle ∨ t = .serial ∨ t = .tick) → ts.count .cycle = u + 1 → u < s.cfg.lineCycles →
    ∃ t, Host.Core.run Sys2Proof.core ts.length s = .next t ∧
      t.video = (decide (s.cfg.hStart ≤ u ∧ u < s.cfg.lineEnd) &&
        ((row ++ [0]).getD ((u - s.cfg.hStart) / s.cfg.bitCycles / 8) 0).getLsbD
          (7 - (u - s.cfg.hStart) / s.cfg.bitCycles % 8)) ∧
      (s.init = false → t.video = false) ∧
      (s.cfg.lineEnd ≤ u + 1 → t.emitted = s.emitted ++ [{ line := s.slc, bytes := row ++ [0] }])

/-- A framebuffer write and the serializer's read of the same byte may fall in one cycle in either order, in every cycle of
the byte's window from the TICK's own to the last before its first bit goes out, also when `DRAW_TIMING` fixes the cycle of
the write: the read gives the written value or the value before it (R177, R348, R76; a cycle's turns, log entry 9). -/
def Obligations.ReadAndWriteOrderIsFree : Prop :=
  ∀ (s : State) (op : MicroOp) (new old v : Byte) (a k : Nat) (kind : PixelKind) (ts : List Turn) (rest : List MicroOp),
    BlockInv s → s.level = .cycle → s.serBusy = true → s.serBlank = false → s.serIdx < s.cfg.rowBytes →
    s.busy = true → drawEnabled s = true → s.ops = op :: rest →
    a = s.serRow * s.cfg.rowBytes + s.serIdx → s.mem.lookup a = some old →
    (op, new) ∈ [(MicroOp.wr a v, v), (.rmw a k kind, pixelByte kind k old)] →
    s.lt < s.cfg.hStart + 8 * s.serIdx * s.cfg.bitCycles ∧
    (s.turns = .draw :: .serial :: ts → ∃ t, Host.Core.run Sys2Proof.core 2 s = .next t ∧
      t.serBuf[s.serIdx]? = some new ∧ t.serIdx = s.serIdx + 1 ∧ t.mem.lookup a = some new ∧
      t.lt = s.lt ∧ t.tickStage = s.tickStage) ∧
    (s.turns = .serial :: .draw :: ts → ∃ t, Host.Core.run Sys2Proof.core 2 s = .next t ∧
      t.serBuf[s.serIdx]? = some old ∧ t.serIdx = s.serIdx + 1 ∧ t.mem.lookup a = some new ∧
      t.lt = s.lt ∧ t.tickStage = s.tickStage)

/-- `video` is at its idle level 0 in every cycle of a line that is not active, before the first bit and after the last
one (R175, R176). -/
def Obligations.VideoIsIdleOffTheLine : Prop :=
  ∀ (s t : State) (ts : List Turn), s.cfg.wf → s.level = .cycle → s.turns = .cycle :: ts → step s = .next t →
    t.phase ≠ .activePicture ∨ s.lt < s.cfg.hStart ∨ s.cfg.lineEnd ≤ s.lt → t.video = false

/-- An event wins over a clear of the same cycle (R304): the host writes IRQ_PEND in the cycle of a TICK, and every bit the
TICK sets is pending when the cycle ends, also when the host's turn comes after the TICK. That a cycle is the turns up to its
`.cycle` turn, and that the write of such a late turn is made in the next cycle, is the model's choice (log entry 9). -/
def Obligations.EventWinsOverClear : Prop :=
  ∀ (s : State) (d : Word) (ts : List Turn) (rest : List HostAccess),
    BlockInv s → s.level = .cycle → s.lt = 0 → s.tickStage ≠ .ticked → s.hostBus = .write 3 d :: rest →
    ∀ e ∈ [([Turn.host], rest), ([.host, .tick], rest), ([.tick, .host], .write 3 d :: rest)],
      s.turns = e.1 ++ .cycle :: ts →
      ∃ t, Host.Core.run Sys2Proof.core (e.1.length + 1) s = .next t ∧ t.hostBus = e.2 ∧ t.lt = 1 ∧
        t.irqPend.getLsbD 0 = true ∧ (s.slc.toNat = s.cfg.active → t.irqPend.getLsbD 1 = true)

/-- After a held reset the first cycle is the TICK of line 0, with `init = 0`, so line 0 is dark whatever the host writes and
whenever the agents take their turns: `video` is 0 in every one of its cycles, and its record is zeros (R332, R167). -/
def Obligations.FirstLineAfterResetIsDark : Prop :=
  ∀ (s : State) (ts : List Turn) (n : Nat),
    s.cfg.wf → s.level = .cycle → s.turns = .rst :: ts → .rst ∉ ts → ts.count .cycle = n + 1 → n < s.cfg.lineCycles →
    ∃ t, Host.Core.run Sys2Proof.core (ts.length + 1) s = .next t ∧ t.video = false ∧
      (s.cfg.lineEnd ≤ n + 1 →
        t.emitted = s.emitted ++ [{ line := 0, bytes := List.replicate (s.cfg.rowBytes + 1) 0 }])

/-- Every cycle-level run is a line-level run (R345): what any number of cycle-level steps leaves, but for the clock's own
fields and the outputs it drives, some list of line-level turns leaves too (R14, R126). What `lineView` leaves out beside
these is the model's own (log entries 1, 5, 7 and 9). -/
def Obligations.CycleLevelIsALineLevelRun : Prop :=
  ∀ (n : Nat) (s t : State), BlockInv s → s.level = .cycle → Host.Core.run Sys2Proof.core n s = .next t →
    ∃ (ts : List Turn) (u : State),
      Host.Core.run Sys2Proof.core ts.length { lineView s with turns := ts } = .next u ∧ lineView u = lineView t

/-! ## Reset and invariants -/

/-- Reset leaves the values the spec gives (R46; `sync_n` from R331, log entry 14), in every configuration. -/
def Obligations.ResetValues : Prop :=
  ∀ cfg : Cfg, 0 < cfg.active →
    let s := State.afterReset cfg
    s.slc = 0 ∧ s.phase = phaseOf cfg (cfg.lines - 1) ∧ s.syncwNext = .short ∧
    s.syncwCur = widthCode (phaseOf cfg (cfg.lines - 1)) ∧ s.lt = 0 ∧ s.serBusy = false ∧ s.init = false ∧
    (∀ a, s.mem.written a = false) ∧ s.asmIdx = 0 ∧ s.busy = false ∧ s.curCmd = none ∧ s.ops = [] ∧
    s.rdata = 0 ∧ s.cmdErr = false ∧ s.overlap = false ∧ s.irqPend = 0 ∧ s.irqEn = 0 ∧
    s.syncN = true ∧ s.video = false ∧ irq s = false

/-- A cycle with `rst = 1` puts every piece of the block's state that R46 gives a value at that value, whatever was going on:
a command being written or executed is dropped, a line is cut off, no flag survives and every byte is unwritten (R330); and
the outputs are at their levels (R331). What R46 leaves unspecified is left open; what is not the block's stays, which is the
model's choice (log entry 12), and its own `tickStage` and `drawAge` are at their first values (log entry 4). -/
def Obligations.HeldResetResetsEverything : Prop :=
  ∀ (s : State) (ts : List Turn), s.cfg.wf → s.turns = .rst :: ts →
    ∃ t, step s = .next t ∧ t.syncN = true ∧ t.video = false ∧ irq t = false ∧
      t = { State.afterReset s.cfg with
        serLine := t.serLine
        serRow := t.serRow
        serIdx := t.serIdx
        serBlank := t.serBlank
        serBuf := t.serBuf
        asmBuf := t.asmBuf
        level := s.level
        turns := ts
        choices := s.choices
        hostBus := s.hostBus
        readLog := s.readLog
        emitted := s.emitted
        draws := s.draws }

/-- The invariant holds after reset, in every well-formed configuration. Of its parts the canonical form of the framebuffer
(log entry 2) and what it says of `tickStage` (log entry 9) are about the model's own choices. -/
def Obligations.ResetMeetsTheInvariant : Prop :=
  ∀ cfg : Cfg, cfg.wf → BlockInv (State.afterReset cfg)

/-- Every step keeps the invariant: the relations R47 to R49, the ranges of the state, the canonical framebuffer and the
serializer's deadlines. The canonical form (log entry 2) and what is said of `tickStage` (log entry 9) are about the model's
own choices. -/
def Obligations.StepKeepsTheInvariant : Prop :=
  ∀ s t : State, BlockInv s → step s = .next t → BlockInv t

/-- The block never stops (R290): from every state that meets the invariant, whoever moves, a step answers a next
state. A turn of an agent that has no enabled step passes (log entry 1). -/
def Obligations.TheBlockNeverStops : Prop :=
  ∀ s : State, BlockInv s → ∃ t, step s = .next t

/-- Every step of every state keeps the framebuffer in its canonical form, the written bytes by strictly rising address, so
that equal contents are equal data. The form is the model's choice (DESIGN CHOICE, log entry 2): the spec gives the bytes
and which of them are written (R30, R31), and no form to list them in. -/
def Obligations.StepKeepsTheFramebufferCanonical : Prop :=
  ∀ s t : State, s.mem.wf → step s = .next t → t.mem.wf

/-- Only reset clears `init`, `cmd_err` and `overlap` (R29, R38, R39). -/
def Obligations.OnlyResetClearsTheFlags : Prop :=
  ∀ s t : State, step s = .next t → (nextTurn s).1 ≠ .rst →
    (s.init = true → t.init = true) ∧ (s.cmdErr = true → t.cmdErr = true) ∧ (s.overlap = true → t.overlap = true)

/-- A host that keeps the temporal partition never sees `OVERLAP` (R350): while every turn keeps it, no step raises the
flag. On an active line the host may run any command that writes no byte: NOP, INIT, PGET, RDBYTE, and a drawing command
that is gated or clipped (R293). -/
def Obligations.PartitionKeepsOverlapClear : Prop :=
  ∀ s t : State, s.overlap = false → partitionKept s → step s = .next t → t.overlap = false
end

