-- ==== Sys2Proof/Laws/State.lean ====
section
/-! SUPPORT. What each named update of the state leaves in each field. -/

namespace Sys2Proof.Machine

@[simp] theorem raiseError_cfg (e : BlockError) (s : State) : (raiseError e s).cfg = s.cfg := by cases e <;> rfl
@[simp] theorem raiseError_level (e : BlockError) (s : State) : (raiseError e s).level = s.level := by cases e <;> rfl
@[simp] theorem raiseError_turns (e : BlockError) (s : State) : (raiseError e s).turns = s.turns := by cases e <;> rfl
@[simp] theorem raiseError_choices (e : BlockError) (s : State) : (raiseError e s).choices = s.choices := by cases e <;> rfl
@[simp] theorem raiseError_hostBus (e : BlockError) (s : State) : (raiseError e s).hostBus = s.hostBus := by cases e <;> rfl
@[simp] theorem raiseError_readLog (e : BlockError) (s : State) : (raiseError e s).readLog = s.readLog := by cases e <;> rfl
@[simp] theorem raiseError_emitted (e : BlockError) (s : State) : (raiseError e s).emitted = s.emitted := by cases e <;> rfl
@[simp] theorem raiseError_draws (e : BlockError) (s : State) : (raiseError e s).draws = s.draws := by cases e <;> rfl
@[simp] theorem raiseError_slc (e : BlockError) (s : State) : (raiseError e s).slc = s.slc := by cases e <;> rfl
@[simp] theorem raiseError_phase (e : BlockError) (s : State) : (raiseError e s).phase = s.phase := by cases e <;> rfl
@[simp] theorem raiseError_syncwNext (e : BlockError) (s : State) : (raiseError e s).syncwNext = s.syncwNext := by cases e <;> rfl
@[simp] theorem raiseError_syncwCur (e : BlockError) (s : State) : (raiseError e s).syncwCur = s.syncwCur := by cases e <;> rfl
@[simp] theorem raiseError_lt (e : BlockError) (s : State) : (raiseError e s).lt = s.lt := by cases e <;> rfl
@[simp] theorem raiseError_serBusy (e : BlockError) (s : State) : (raiseError e s).serBusy = s.serBusy := by cases e <;> rfl
@[simp] theorem raiseError_serLine (e : BlockError) (s : State) : (raiseError e s).serLine = s.serLine := by cases e <;> rfl
@[simp] theorem raiseError_serRow (e : BlockError) (s : State) : (raiseError e s).serRow = s.serRow := by cases e <;> rfl
@[simp] theorem raiseError_serIdx (e : BlockError) (s : State) : (raiseError e s).serIdx = s.serIdx := by cases e <;> rfl
@[simp] theorem raiseError_serBlank (e : BlockError) (s : State) : (raiseError e s).serBlank = s.serBlank := by cases e <;> rfl
@[simp] theorem raiseError_serBuf (e : BlockError) (s : State) : (raiseError e s).serBuf = s.serBuf := by cases e <;> rfl
@[simp] theorem raiseError_init (e : BlockError) (s : State) : (raiseError e s).init = s.init := by cases e <;> rfl
@[simp] theorem raiseError_mem (e : BlockError) (s : State) : (raiseError e s).mem = s.mem := by cases e <;> rfl
@[simp] theorem raiseError_asmBuf (e : BlockError) (s : State) : (raiseError e s).asmBuf = s.asmBuf := by cases e <;> rfl
@[simp] theorem raiseError_asmIdx (e : BlockError) (s : State) : (raiseError e s).asmIdx = s.asmIdx := by cases e <;> rfl
@[simp] theorem raiseError_busy (e : BlockError) (s : State) : (raiseError e s).busy = s.busy := by cases e <;> rfl
@[simp] theorem raiseError_curCmd (e : BlockError) (s : State) : (raiseError e s).curCmd = s.curCmd := by cases e <;> rfl
@[simp] theorem raiseError_ops (e : BlockError) (s : State) : (raiseError e s).ops = s.ops := by cases e <;> rfl
@[simp] theorem raiseError_drawAge (e : BlockError) (s : State) : (raiseError e s).drawAge = s.drawAge := by cases e <;> rfl
@[simp] theorem raiseError_rdata (e : BlockError) (s : State) : (raiseError e s).rdata = s.rdata := by cases e <;> rfl
@[simp] theorem raiseError_cmdErr (e : BlockError) (s : State) : (raiseError e s).cmdErr = (s.cmdErr || e == .cmdError) := by cases e <;> simp [raiseError]
@[simp] theorem raiseError_overlap (e : BlockError) (s : State) : (raiseError e s).overlap = (s.overlap || e == .overlap) := by cases e <;> simp [raiseError]
@[simp] theorem raiseError_irqPend (e : BlockError) (s : State) : (raiseError e s).irqPend = s.irqPend := by cases e <;> rfl
@[simp] theorem raiseError_irqEn (e : BlockError) (s : State) : (raiseError e s).irqEn = s.irqEn := by cases e <;> rfl
@[simp] theorem raiseError_tickStage (e : BlockError) (s : State) : (raiseError e s).tickStage = s.tickStage := by cases e <;> rfl
@[simp] theorem raiseError_syncN (e : BlockError) (s : State) : (raiseError e s).syncN = s.syncN := by cases e <;> rfl
@[simp] theorem raiseError_video (e : BlockError) (s : State) : (raiseError e s).video = s.video := by cases e <;> rfl

@[simp] theorem raiseEvents_cfg (ev : BitVec 2) (s : State) : (raiseEvents ev s).cfg = s.cfg := rfl
@[simp] theorem raiseEvents_level (ev : BitVec 2) (s : State) : (raiseEvents ev s).level = s.level := rfl
@[simp] theorem raiseEvents_turns (ev : BitVec 2) (s : State) : (raiseEvents ev s).turns = s.turns := rfl
@[simp] theorem raiseEvents_choices (ev : BitVec 2) (s : State) : (raiseEvents ev s).choices = s.choices := rfl
@[simp] theorem raiseEvents_hostBus (ev : BitVec 2) (s : State) : (raiseEvents ev s).hostBus = s.hostBus := rfl
@[simp] theorem raiseEvents_readLog (ev : BitVec 2) (s : State) : (raiseEvents ev s).readLog = s.readLog := rfl
@[simp] theorem raiseEvents_emitted (ev : BitVec 2) (s : State) : (raiseEvents ev s).emitted = s.emitted := rfl
@[simp] theorem raiseEvents_draws (ev : BitVec 2) (s : State) : (raiseEvents ev s).draws = s.draws := rfl
@[simp] theorem raiseEvents_slc (ev : BitVec 2) (s : State) : (raiseEvents ev s).slc = s.slc := rfl
@[simp] theorem raiseEvents_phase (ev : BitVec 2) (s : State) : (raiseEvents ev s).phase = s.phase := rfl
@[simp] theorem raiseEvents_syncwNext (ev : BitVec 2) (s : State) : (raiseEvents ev s).syncwNext = s.syncwNext := rfl
@[simp] theorem raiseEvents_syncwCur (ev : BitVec 2) (s : State) : (raiseEvents ev s).syncwCur = s.syncwCur := rfl
@[simp] theorem raiseEvents_lt (ev : BitVec 2) (s : State) : (raiseEvents ev s).lt = s.lt := rfl
@[simp] theorem raiseEvents_serBusy (ev : BitVec 2) (s : State) : (raiseEvents ev s).serBusy = s.serBusy := rfl
@[simp] theorem raiseEvents_serLine (ev : BitVec 2) (s : State) : (raiseEvents ev s).serLine = s.serLine := rfl
@[simp] theorem raiseEvents_serRow (ev : BitVec 2) (s : State) : (raiseEvents ev s).serRow = s.serRow := rfl
@[simp] theorem raiseEvents_serIdx (ev : BitVec 2) (s : State) : (raiseEvents ev s).serIdx = s.serIdx := rfl
@[simp] theorem raiseEvents_serBlank (ev : BitVec 2) (s : State) : (raiseEvents ev s).serBlank = s.serBlank := rfl
@[simp] theorem raiseEvents_serBuf (ev : BitVec 2) (s : State) : (raiseEvents ev s).serBuf = s.serBuf := rfl
@[simp] theorem raiseEvents_init (ev : BitVec 2) (s : State) : (raiseEvents ev s).init = s.init := rfl
@[simp] theorem raiseEvents_mem (ev : BitVec 2) (s : State) : (raiseEvents ev s).mem = s.mem := rfl
@[simp] theorem raiseEvents_asmBuf (ev : BitVec 2) (s : State) : (raiseEvents ev s).asmBuf = s.asmBuf := rfl
@[simp] theorem raiseEvents_asmIdx (ev : BitVec 2) (s : State) : (raiseEvents ev s).asmIdx = s.asmIdx := rfl
@[simp] theorem raiseEvents_busy (ev : BitVec 2) (s : State) : (raiseEvents ev s).busy = s.busy := rfl
@[simp] theorem raiseEvents_curCmd (ev : BitVec 2) (s : State) : (raiseEvents ev s).curCmd = s.curCmd := rfl
@[simp] theorem raiseEvents_ops (ev : BitVec 2) (s : State) : (raiseEvents ev s).ops = s.ops := rfl
@[simp] theorem raiseEvents_drawAge (ev : BitVec 2) (s : State) : (raiseEvents ev s).drawAge = s.drawAge := rfl
@[simp] theorem raiseEvents_rdata (ev : BitVec 2) (s : State) : (raiseEvents ev s).rdata = s.rdata := rfl
@[simp] theorem raiseEvents_cmdErr (ev : BitVec 2) (s : State) : (raiseEvents ev s).cmdErr = s.cmdErr := rfl
@[simp] theorem raiseEvents_overlap (ev : BitVec 2) (s : State) : (raiseEvents ev s).overlap = s.overlap := rfl
@[simp] theorem raiseEvents_irqPend (ev : BitVec 2) (s : State) : (raiseEvents ev s).irqPend = s.irqPend ||| ev := rfl
@[simp] theorem raiseEvents_irqEn (ev : BitVec 2) (s : State) : (raiseEvents ev s).irqEn = s.irqEn := rfl
@[simp] theorem raiseEvents_tickStage (ev : BitVec 2) (s : State) : (raiseEvents ev s).tickStage = s.tickStage := rfl
@[simp] theorem raiseEvents_syncN (ev : BitVec 2) (s : State) : (raiseEvents ev s).syncN = s.syncN := rfl
@[simp] theorem raiseEvents_video (ev : BitVec 2) (s : State) : (raiseEvents ev s).video = s.video := rfl

@[simp] theorem countDraw_cfg (s : State) : (countDraw s).cfg = s.cfg := rfl
@[simp] theorem countDraw_level (s : State) : (countDraw s).level = s.level := rfl
@[simp] theorem countDraw_turns (s : State) : (countDraw s).turns = s.turns := rfl
@[simp] theorem countDraw_choices (s : State) : (countDraw s).choices = s.choices := rfl
@[simp] theorem countDraw_hostBus (s : State) : (countDraw s).hostBus = s.hostBus := rfl
@[simp] theorem countDraw_readLog (s : State) : (countDraw s).readLog = s.readLog := rfl
@[simp] theorem countDraw_emitted (s : State) : (countDraw s).emitted = s.emitted := rfl
@[simp] theorem countDraw_draws (s : State) : (countDraw s).draws = s.draws + 1 := rfl
@[simp] theorem countDraw_slc (s : State) : (countDraw s).slc = s.slc := rfl
@[simp] theorem countDraw_phase (s : State) : (countDraw s).phase = s.phase := rfl
@[simp] theorem countDraw_syncwNext (s : State) : (countDraw s).syncwNext = s.syncwNext := rfl
@[simp] theorem countDraw_syncwCur (s : State) : (countDraw s).syncwCur = s.syncwCur := rfl
@[simp] theorem countDraw_lt (s : State) : (countDraw s).lt = s.lt := rfl
@[simp] theorem countDraw_serBusy (s : State) : (countDraw s).serBusy = s.serBusy := rfl
@[simp] theorem countDraw_serLine (s : State) : (countDraw s).serLine = s.serLine := rfl
@[simp] theorem countDraw_serRow (s : State) : (countDraw s).serRow = s.serRow := rfl
@[simp] theorem countDraw_serIdx (s : State) : (countDraw s).serIdx = s.serIdx := rfl
@[simp] theorem countDraw_serBlank (s : State) : (countDraw s).serBlank = s.serBlank := rfl
@[simp] theorem countDraw_serBuf (s : State) : (countDraw s).serBuf = s.serBuf := rfl
@[simp] theorem countDraw_init (s : State) : (countDraw s).init = s.init := rfl
@[simp] theorem countDraw_mem (s : State) : (countDraw s).mem = s.mem := rfl
@[simp] theorem countDraw_asmBuf (s : State) : (countDraw s).asmBuf = s.asmBuf := rfl
@[simp] theorem countDraw_asmIdx (s : State) : (countDraw s).asmIdx = s.asmIdx := rfl
@[simp] theorem countDraw_busy (s : State) : (countDraw s).busy = s.busy := rfl
@[simp] theorem countDraw_curCmd (s : State) : (countDraw s).curCmd = s.curCmd := rfl
@[simp] theorem countDraw_ops (s : State) : (countDraw s).ops = s.ops := rfl
@[simp] theorem countDraw_drawAge (s : State) : (countDraw s).drawAge = s.drawAge := rfl
@[simp] theorem countDraw_rdata (s : State) : (countDraw s).rdata = s.rdata := rfl
@[simp] theorem countDraw_cmdErr (s : State) : (countDraw s).cmdErr = s.cmdErr := rfl
@[simp] theorem countDraw_overlap (s : State) : (countDraw s).overlap = s.overlap := rfl
@[simp] theorem countDraw_irqPend (s : State) : (countDraw s).irqPend = s.irqPend := rfl
@[simp] theorem countDraw_irqEn (s : State) : (countDraw s).irqEn = s.irqEn := rfl
@[simp] theorem countDraw_tickStage (s : State) : (countDraw s).tickStage = s.tickStage := rfl
@[simp] theorem countDraw_syncN (s : State) : (countDraw s).syncN = s.syncN := rfl
@[simp] theorem countDraw_video (s : State) : (countDraw s).video = s.video := rfl

@[simp] theorem storeByte_cfg (a : Nat) (v : Byte) (s : State) : (storeByte a v s).cfg = s.cfg := rfl
@[simp] theorem storeByte_level (a : Nat) (v : Byte) (s : State) : (storeByte a v s).level = s.level := rfl
@[simp] theorem storeByte_turns (a : Nat) (v : Byte) (s : State) : (storeByte a v s).turns = s.turns := rfl
@[simp] theorem storeByte_choices (a : Nat) (v : Byte) (s : State) : (storeByte a v s).choices = s.choices := rfl
@[simp] theorem storeByte_hostBus (a : Nat) (v : Byte) (s : State) : (storeByte a v s).hostBus = s.hostBus := rfl
@[simp] theorem storeByte_readLog (a : Nat) (v : Byte) (s : State) : (storeByte a v s).readLog = s.readLog := rfl
@[simp] theorem storeByte_emitted (a : Nat) (v : Byte) (s : State) : (storeByte a v s).emitted = s.emitted := rfl
@[simp] theorem storeByte_draws (a : Nat) (v : Byte) (s : State) : (storeByte a v s).draws = s.draws := rfl
@[simp] theorem storeByte_slc (a : Nat) (v : Byte) (s : State) : (storeByte a v s).slc = s.slc := rfl
@[simp] theorem storeByte_phase (a : Nat) (v : Byte) (s : State) : (storeByte a v s).phase = s.phase := rfl
@[simp] theorem storeByte_syncwNext (a : Nat) (v : Byte) (s : State) : (storeByte a v s).syncwNext = s.syncwNext := rfl
@[simp] theorem storeByte_syncwCur (a : Nat) (v : Byte) (s : State) : (storeByte a v s).syncwCur = s.syncwCur := rfl
@[simp] theorem storeByte_lt (a : Nat) (v : Byte) (s : State) : (storeByte a v s).lt = s.lt := rfl
@[simp] theorem storeByte_serBusy (a : Nat) (v : Byte) (s : State) : (storeByte a v s).serBusy = s.serBusy := rfl
@[simp] theorem storeByte_serLine (a : Nat) (v : Byte) (s : State) : (storeByte a v s).serLine = s.serLine := rfl
@[simp] theorem storeByte_serRow (a : Nat) (v : Byte) (s : State) : (storeByte a v s).serRow = s.serRow := rfl
@[simp] theorem storeByte_serIdx (a : Nat) (v : Byte) (s : State) : (storeByte a v s).serIdx = s.serIdx := rfl
@[simp] theorem storeByte_serBlank (a : Nat) (v : Byte) (s : State) : (storeByte a v s).serBlank = s.serBlank := rfl
@[simp] theorem storeByte_serBuf (a : Nat) (v : Byte) (s : State) : (storeByte a v s).serBuf = s.serBuf := rfl
@[simp] theorem storeByte_init (a : Nat) (v : Byte) (s : State) : (storeByte a v s).init = s.init := rfl
@[simp] theorem storeByte_mem (a : Nat) (v : Byte) (s : State) : (storeByte a v s).mem = s.mem.store a v := rfl
@[simp] theorem storeByte_asmBuf (a : Nat) (v : Byte) (s : State) : (storeByte a v s).asmBuf = s.asmBuf := rfl
@[simp] theorem storeByte_asmIdx (a : Nat) (v : Byte) (s : State) : (storeByte a v s).asmIdx = s.asmIdx := rfl
@[simp] theorem storeByte_busy (a : Nat) (v : Byte) (s : State) : (storeByte a v s).busy = s.busy := rfl
@[simp] theorem storeByte_curCmd (a : Nat) (v : Byte) (s : State) : (storeByte a v s).curCmd = s.curCmd := rfl
@[simp] theorem storeByte_ops (a : Nat) (v : Byte) (s : State) : (storeByte a v s).ops = s.ops := rfl
@[simp] theorem storeByte_drawAge (a : Nat) (v : Byte) (s : State) : (storeByte a v s).drawAge = s.drawAge := rfl
@[simp] theorem storeByte_rdata (a : Nat) (v : Byte) (s : State) : (storeByte a v s).rdata = s.rdata := rfl
@[simp] theorem storeByte_cmdErr (a : Nat) (v : Byte) (s : State) : (storeByte a v s).cmdErr = s.cmdErr := rfl
@[simp] theorem storeByte_overlap (a : Nat) (v : Byte) (s : State) : (storeByte a v s).overlap = s.overlap := rfl
@[simp] theorem storeByte_irqPend (a : Nat) (v : Byte) (s : State) : (storeByte a v s).irqPend = s.irqPend := rfl
@[simp] theorem storeByte_irqEn (a : Nat) (v : Byte) (s : State) : (storeByte a v s).irqEn = s.irqEn := rfl
@[simp] theorem storeByte_tickStage (a : Nat) (v : Byte) (s : State) : (storeByte a v s).tickStage = s.tickStage := rfl
@[simp] theorem storeByte_syncN (a : Nat) (v : Byte) (s : State) : (storeByte a v s).syncN = s.syncN := rfl
@[simp] theorem storeByte_video (a : Nat) (v : Byte) (s : State) : (storeByte a v s).video = s.video := rfl

@[simp] theorem setRdata_cfg (v : Byte) (s : State) : (setRdata v s).cfg = s.cfg := rfl
@[simp] theorem setRdata_level (v : Byte) (s : State) : (setRdata v s).level = s.level := rfl
@[simp] theorem setRdata_turns (v : Byte) (s : State) : (setRdata v s).turns = s.turns := rfl
@[simp] theorem setRdata_choices (v : Byte) (s : State) : (setRdata v s).choices = s.choices := rfl
@[simp] theorem setRdata_hostBus (v : Byte) (s : State) : (setRdata v s).hostBus = s.hostBus := rfl
@[simp] theorem setRdata_readLog (v : Byte) (s : State) : (setRdata v s).readLog = s.readLog := rfl
@[simp] theorem setRdata_emitted (v : Byte) (s : State) : (setRdata v s).emitted = s.emitted := rfl
@[simp] theorem setRdata_draws (v : Byte) (s : State) : (setRdata v s).draws = s.draws := rfl
@[simp] theorem setRdata_slc (v : Byte) (s : State) : (setRdata v s).slc = s.slc := rfl
@[simp] theorem setRdata_phase (v : Byte) (s : State) : (setRdata v s).phase = s.phase := rfl
@[simp] theorem setRdata_syncwNext (v : Byte) (s : State) : (setRdata v s).syncwNext = s.syncwNext := rfl
@[simp] theorem setRdata_syncwCur (v : Byte) (s : State) : (setRdata v s).syncwCur = s.syncwCur := rfl
@[simp] theorem setRdata_lt (v : Byte) (s : State) : (setRdata v s).lt = s.lt := rfl
@[simp] theorem setRdata_serBusy (v : Byte) (s : State) : (setRdata v s).serBusy = s.serBusy := rfl
@[simp] theorem setRdata_serLine (v : Byte) (s : State) : (setRdata v s).serLine = s.serLine := rfl
@[simp] theorem setRdata_serRow (v : Byte) (s : State) : (setRdata v s).serRow = s.serRow := rfl
@[simp] theorem setRdata_serIdx (v : Byte) (s : State) : (setRdata v s).serIdx = s.serIdx := rfl
@[simp] theorem setRdata_serBlank (v : Byte) (s : State) : (setRdata v s).serBlank = s.serBlank := rfl
@[simp] theorem setRdata_serBuf (v : Byte) (s : State) : (setRdata v s).serBuf = s.serBuf := rfl
@[simp] theorem setRdata_init (v : Byte) (s : State) : (setRdata v s).init = s.init := rfl
@[simp] theorem setRdata_mem (v : Byte) (s : State) : (setRdata v s).mem = s.mem := rfl
@[simp] theorem setRdata_asmBuf (v : Byte) (s : State) : (setRdata v s).asmBuf = s.asmBuf := rfl
@[simp] theorem setRdata_asmIdx (v : Byte) (s : State) : (setRdata v s).asmIdx = s.asmIdx := rfl
@[simp] theorem setRdata_busy (v : Byte) (s : State) : (setRdata v s).busy = s.busy := rfl
@[simp] theorem setRdata_curCmd (v : Byte) (s : State) : (setRdata v s).curCmd = s.curCmd := rfl
@[simp] theorem setRdata_ops (v : Byte) (s : State) : (setRdata v s).ops = s.ops := rfl
@[simp] theorem setRdata_drawAge (v : Byte) (s : State) : (setRdata v s).drawAge = s.drawAge := rfl
@[simp] theorem setRdata_rdata (v : Byte) (s : State) : (setRdata v s).rdata = v := rfl
@[simp] theorem setRdata_cmdErr (v : Byte) (s : State) : (setRdata v s).cmdErr = s.cmdErr := rfl
@[simp] theorem setRdata_overlap (v : Byte) (s : State) : (setRdata v s).overlap = s.overlap := rfl
@[simp] theorem setRdata_irqPend (v : Byte) (s : State) : (setRdata v s).irqPend = s.irqPend := rfl
@[simp] theorem setRdata_irqEn (v : Byte) (s : State) : (setRdata v s).irqEn = s.irqEn := rfl
@[simp] theorem setRdata_tickStage (v : Byte) (s : State) : (setRdata v s).tickStage = s.tickStage := rfl
@[simp] theorem setRdata_syncN (v : Byte) (s : State) : (setRdata v s).syncN = s.syncN := rfl
@[simp] theorem setRdata_video (v : Byte) (s : State) : (setRdata v s).video = s.video := rfl

@[simp] theorem beginCommand_cfg (c : Command) (plan : List MicroOp) (s : State) : (beginCommand c plan s).cfg = s.cfg := rfl
@[simp] theorem beginCommand_level (c : Command) (plan : List MicroOp) (s : State) : (beginCommand c plan s).level = s.level := rfl
@[simp] theorem beginCommand_turns (c : Command) (plan : List MicroOp) (s : State) : (beginCommand c plan s).turns = s.turns := rfl
@[simp] theorem beginCommand_choices (c : Command) (plan : List MicroOp) (s : State) : (beginCommand c plan s).choices = s.choices := rfl
@[simp] theorem beginCommand_hostBus (c : Command) (plan : List MicroOp) (s : State) : (beginCommand c plan s).hostBus = s.hostBus := rfl
@[simp] theorem beginCommand_readLog (c : Command) (plan : List MicroOp) (s : State) : (beginCommand c plan s).readLog = s.readLog := rfl
@[simp] theorem beginCommand_emitted (c : Command) (plan : List MicroOp) (s : State) : (beginCommand c plan s).emitted = s.emitted := rfl
@[simp] theorem beginCommand_draws (c : Command) (plan : List MicroOp) (s : State) : (beginCommand c plan s).draws = s.draws := rfl
@[simp] theorem beginCommand_slc (c : Command) (plan : List MicroOp) (s : State) : (beginCommand c plan s).slc = s.slc := rfl
@[simp] theorem beginCommand_phase (c : Command) (plan : List MicroOp) (s : State) : (beginCommand c plan s).phase = s.phase := rfl
@[simp] theorem beginCommand_syncwNext (c : Command) (plan : List MicroOp) (s : State) : (beginCommand c plan s).syncwNext = s.syncwNext := rfl
@[simp] theorem beginCommand_syncwCur (c : Command) (plan : List MicroOp) (s : State) : (beginCommand c plan s).syncwCur = s.syncwCur := rfl
@[simp] theorem beginCommand_lt (c : Command) (plan : List MicroOp) (s : State) : (beginCommand c plan s).lt = s.lt := rfl
@[simp] theorem beginCommand_serBusy (c : Command) (plan : List MicroOp) (s : State) : (beginCommand c plan s).serBusy = s.serBusy := rfl
@[simp] theorem beginCommand_serLine (c : Command) (plan : List MicroOp) (s : State) : (beginCommand c plan s).serLine = s.serLine := rfl
@[simp] theorem beginCommand_serRow (c : Command) (plan : List MicroOp) (s : State) : (beginCommand c plan s).serRow = s.serRow := rfl
@[simp] theorem beginCommand_serIdx (c : Command) (plan : List MicroOp) (s : State) : (beginCommand c plan s).serIdx = s.serIdx := rfl
@[simp] theorem beginCommand_serBlank (c : Command) (plan : List MicroOp) (s : State) : (beginCommand c plan s).serBlank = s.serBlank := rfl
@[simp] theorem beginCommand_serBuf (c : Command) (plan : List MicroOp) (s : State) : (beginCommand c plan s).serBuf = s.serBuf := rfl
@[simp] theorem beginCommand_init (c : Command) (plan : List MicroOp) (s : State) : (beginCommand c plan s).init = s.init := rfl
@[simp] theorem beginCommand_mem (c : Command) (plan : List MicroOp) (s : State) : (beginCommand c plan s).mem = s.mem := rfl
@[simp] theorem beginCommand_asmBuf (c : Command) (plan : List MicroOp) (s : State) : (beginCommand c plan s).asmBuf = s.asmBuf := rfl
@[simp] theorem beginCommand_asmIdx (c : Command) (plan : List MicroOp) (s : State) : (beginCommand c plan s).asmIdx = s.asmIdx := rfl
@[simp] theorem beginCommand_busy (c : Command) (plan : List MicroOp) (s : State) : (beginCommand c plan s).busy = true := rfl
@[simp] theorem beginCommand_curCmd (c : Command) (plan : List MicroOp) (s : State) : (beginCommand c plan s).curCmd = some c := rfl
@[simp] theorem beginCommand_ops (c : Command) (plan : List MicroOp) (s : State) : (beginCommand c plan s).ops = plan := rfl
@[simp] theorem beginCommand_drawAge (c : Command) (plan : List MicroOp) (s : State) : (beginCommand c plan s).drawAge = 0 := rfl
@[simp] theorem beginCommand_rdata (c : Command) (plan : List MicroOp) (s : State) : (beginCommand c plan s).rdata = s.rdata := rfl
@[simp] theorem beginCommand_cmdErr (c : Command) (plan : List MicroOp) (s : State) : (beginCommand c plan s).cmdErr = s.cmdErr := rfl
@[simp] theorem beginCommand_overlap (c : Command) (plan : List MicroOp) (s : State) : (beginCommand c plan s).overlap = s.overlap := rfl
@[simp] theorem beginCommand_irqPend (c : Command) (plan : List MicroOp) (s : State) : (beginCommand c plan s).irqPend = s.irqPend := rfl
@[simp] theorem beginCommand_irqEn (c : Command) (plan : List MicroOp) (s : State) : (beginCommand c plan s).irqEn = s.irqEn := rfl
@[simp] theorem beginCommand_tickStage (c : Command) (plan : List MicroOp) (s : State) : (beginCommand c plan s).tickStage = s.tickStage := rfl
@[simp] theorem beginCommand_syncN (c : Command) (plan : List MicroOp) (s : State) : (beginCommand c plan s).syncN = s.syncN := rfl
@[simp] theorem beginCommand_video (c : Command) (plan : List MicroOp) (s : State) : (beginCommand c plan s).video = s.video := rfl

@[simp] theorem leaveOps_cfg (rest : List MicroOp) (s : State) : (leaveOps rest s).cfg = s.cfg := rfl
@[simp] theorem leaveOps_level (rest : List MicroOp) (s : State) : (leaveOps rest s).level = s.level := rfl
@[simp] theorem leaveOps_turns (rest : List MicroOp) (s : State) : (leaveOps rest s).turns = s.turns := rfl
@[simp] theorem leaveOps_choices (rest : List MicroOp) (s : State) : (leaveOps rest s).choices = s.choices := rfl
@[simp] theorem leaveOps_hostBus (rest : List MicroOp) (s : State) : (leaveOps rest s).hostBus = s.hostBus := rfl
@[simp] theorem leaveOps_readLog (rest : List MicroOp) (s : State) : (leaveOps rest s).readLog = s.readLog := rfl
@[simp] theorem leaveOps_emitted (rest : List MicroOp) (s : State) : (leaveOps rest s).emitted = s.emitted := rfl
@[simp] theorem leaveOps_draws (rest : List MicroOp) (s : State) : (leaveOps rest s).draws = s.draws := rfl
@[simp] theorem leaveOps_slc (rest : List MicroOp) (s : State) : (leaveOps rest s).slc = s.slc := rfl
@[simp] theorem leaveOps_phase (rest : List MicroOp) (s : State) : (leaveOps rest s).phase = s.phase := rfl
@[simp] theorem leaveOps_syncwNext (rest : List MicroOp) (s : State) : (leaveOps rest s).syncwNext = s.syncwNext := rfl
@[simp] theorem leaveOps_syncwCur (rest : List MicroOp) (s : State) : (leaveOps rest s).syncwCur = s.syncwCur := rfl
@[simp] theorem leaveOps_lt (rest : List MicroOp) (s : State) : (leaveOps rest s).lt = s.lt := rfl
@[simp] theorem leaveOps_serBusy (rest : List MicroOp) (s : State) : (leaveOps rest s).serBusy = s.serBusy := rfl
@[simp] theorem leaveOps_serLine (rest : List MicroOp) (s : State) : (leaveOps rest s).serLine = s.serLine := rfl
@[simp] theorem leaveOps_serRow (rest : List MicroOp) (s : State) : (leaveOps rest s).serRow = s.serRow := rfl
@[simp] theorem leaveOps_serIdx (rest : List MicroOp) (s : State) : (leaveOps rest s).serIdx = s.serIdx := rfl
@[simp] theorem leaveOps_serBlank (rest : List MicroOp) (s : State) : (leaveOps rest s).serBlank = s.serBlank := rfl
@[simp] theorem leaveOps_serBuf (rest : List MicroOp) (s : State) : (leaveOps rest s).serBuf = s.serBuf := rfl
@[simp] theorem leaveOps_init (rest : List MicroOp) (s : State) : (leaveOps rest s).init = s.init := rfl
@[simp] theorem leaveOps_mem (rest : List MicroOp) (s : State) : (leaveOps rest s).mem = s.mem := rfl
@[simp] theorem leaveOps_asmBuf (rest : List MicroOp) (s : State) : (leaveOps rest s).asmBuf = s.asmBuf := rfl
@[simp] theorem leaveOps_asmIdx (rest : List MicroOp) (s : State) : (leaveOps rest s).asmIdx = s.asmIdx := rfl
@[simp] theorem leaveOps_busy (rest : List MicroOp) (s : State) : (leaveOps rest s).busy = (!rest.isEmpty) := rfl
@[simp] theorem leaveOps_curCmd (rest : List MicroOp) (s : State) :
    (leaveOps rest s).curCmd = if rest.isEmpty then none else s.curCmd := rfl
@[simp] theorem leaveOps_ops (rest : List MicroOp) (s : State) : (leaveOps rest s).ops = rest := rfl
@[simp] theorem leaveOps_drawAge (rest : List MicroOp) (s : State) : (leaveOps rest s).drawAge = 0 := rfl
@[simp] theorem leaveOps_rdata (rest : List MicroOp) (s : State) : (leaveOps rest s).rdata = s.rdata := rfl
@[simp] theorem leaveOps_cmdErr (rest : List MicroOp) (s : State) : (leaveOps rest s).cmdErr = s.cmdErr := rfl
@[simp] theorem leaveOps_overlap (rest : List MicroOp) (s : State) : (leaveOps rest s).overlap = s.overlap := rfl
@[simp] theorem leaveOps_irqPend (rest : List MicroOp) (s : State) : (leaveOps rest s).irqPend = s.irqPend := rfl
@[simp] theorem leaveOps_irqEn (rest : List MicroOp) (s : State) : (leaveOps rest s).irqEn = s.irqEn := rfl
@[simp] theorem leaveOps_tickStage (rest : List MicroOp) (s : State) : (leaveOps rest s).tickStage = s.tickStage := rfl
@[simp] theorem leaveOps_syncN (rest : List MicroOp) (s : State) : (leaveOps rest s).syncN = s.syncN := rfl
@[simp] theorem leaveOps_video (rest : List MicroOp) (s : State) : (leaveOps rest s).video = s.video := rfl

@[simp] theorem serializerStart_cfg (c : BitVec 9) (s : State) : (serializerStart c s).cfg = s.cfg := rfl
@[simp] theorem serializerStart_level (c : BitVec 9) (s : State) : (serializerStart c s).level = s.level := rfl
@[simp] theorem serializerStart_turns (c : BitVec 9) (s : State) : (serializerStart c s).turns = s.turns := rfl
@[simp] theorem serializerStart_choices (c : BitVec 9) (s : State) : (serializerStart c s).choices = s.choices := rfl
@[simp] theorem serializerStart_hostBus (c : BitVec 9) (s : State) : (serializerStart c s).hostBus = s.hostBus := rfl
@[simp] theorem serializerStart_readLog (c : BitVec 9) (s : State) : (serializerStart c s).readLog = s.readLog := rfl
@[simp] theorem serializerStart_emitted (c : BitVec 9) (s : State) : (serializerStart c s).emitted = s.emitted := rfl
@[simp] theorem serializerStart_draws (c : BitVec 9) (s : State) : (serializerStart c s).draws = s.draws := rfl
@[simp] theorem serializerStart_slc (c : BitVec 9) (s : State) : (serializerStart c s).slc = s.slc := rfl
@[simp] theorem serializerStart_phase (c : BitVec 9) (s : State) : (serializerStart c s).phase = s.phase := rfl
@[simp] theorem serializerStart_syncwNext (c : BitVec 9) (s : State) : (serializerStart c s).syncwNext = s.syncwNext := rfl
@[simp] theorem serializerStart_syncwCur (c : BitVec 9) (s : State) : (serializerStart c s).syncwCur = s.syncwCur := rfl
@[simp] theorem serializerStart_lt (c : BitVec 9) (s : State) : (serializerStart c s).lt = s.lt := rfl
@[simp] theorem serializerStart_serBusy (c : BitVec 9) (s : State) : (serializerStart c s).serBusy = true := rfl
@[simp] theorem serializerStart_serLine (c : BitVec 9) (s : State) : (serializerStart c s).serLine = c := rfl
@[simp] theorem serializerStart_serRow (c : BitVec 9) (s : State) : (serializerStart c s).serRow = rowOf s.cfg c.toNat := rfl
@[simp] theorem serializerStart_serIdx (c : BitVec 9) (s : State) : (serializerStart c s).serIdx = 0 := rfl
@[simp] theorem serializerStart_serBlank (c : BitVec 9) (s : State) : (serializerStart c s).serBlank = (!s.init) := rfl
@[simp] theorem serializerStart_serBuf (c : BitVec 9) (s : State) : (serializerStart c s).serBuf = s.serBuf := rfl
@[simp] theorem serializerStart_init (c : BitVec 9) (s : State) : (serializerStart c s).init = s.init := rfl
@[simp] theorem serializerStart_mem (c : BitVec 9) (s : State) : (serializerStart c s).mem = s.mem := rfl
@[simp] theorem serializerStart_asmBuf (c : BitVec 9) (s : State) : (serializerStart c s).asmBuf = s.asmBuf := rfl
@[simp] theorem serializerStart_asmIdx (c : BitVec 9) (s : State) : (serializerStart c s).asmIdx = s.asmIdx := rfl
@[simp] theorem serializerStart_busy (c : BitVec 9) (s : State) : (serializerStart c s).busy = s.busy := rfl
@[simp] theorem serializerStart_curCmd (c : BitVec 9) (s : State) : (serializerStart c s).curCmd = s.curCmd := rfl
@[simp] theorem serializerStart_ops (c : BitVec 9) (s : State) : (serializerStart c s).ops = s.ops := rfl
@[simp] theorem serializerStart_drawAge (c : BitVec 9) (s : State) : (serializerStart c s).drawAge = s.drawAge := rfl
@[simp] theorem serializerStart_rdata (c : BitVec 9) (s : State) : (serializerStart c s).rdata = s.rdata := rfl
@[simp] theorem serializerStart_cmdErr (c : BitVec 9) (s : State) : (serializerStart c s).cmdErr = s.cmdErr := rfl
@[simp] theorem serializerStart_overlap (c : BitVec 9) (s : State) : (serializerStart c s).overlap = s.overlap := rfl
@[simp] theorem serializerStart_irqPend (c : BitVec 9) (s : State) : (serializerStart c s).irqPend = s.irqPend := rfl
@[simp] theorem serializerStart_irqEn (c : BitVec 9) (s : State) : (serializerStart c s).irqEn = s.irqEn := rfl
@[simp] theorem serializerStart_tickStage (c : BitVec 9) (s : State) : (serializerStart c s).tickStage = s.tickStage := rfl
@[simp] theorem serializerStart_syncN (c : BitVec 9) (s : State) : (serializerStart c s).syncN = s.syncN := rfl
@[simp] theorem serializerStart_video (c : BitVec 9) (s : State) : (serializerStart c s).video = s.video := rfl

@[simp] theorem pushLineByte_cfg (b : Byte) (s : State) : (pushLineByte b s).cfg = s.cfg := rfl
@[simp] theorem pushLineByte_level (b : Byte) (s : State) : (pushLineByte b s).level = s.level := rfl
@[simp] theorem pushLineByte_turns (b : Byte) (s : State) : (pushLineByte b s).turns = s.turns := rfl
@[simp] theorem pushLineByte_choices (b : Byte) (s : State) : (pushLineByte b s).choices = s.choices := rfl
@[simp] theorem pushLineByte_hostBus (b : Byte) (s : State) : (pushLineByte b s).hostBus = s.hostBus := rfl
@[simp] theorem pushLineByte_readLog (b : Byte) (s : State) : (pushLineByte b s).readLog = s.readLog := rfl
@[simp] theorem pushLineByte_emitted (b : Byte) (s : State) : (pushLineByte b s).emitted = s.emitted := rfl
@[simp] theorem pushLineByte_draws (b : Byte) (s : State) : (pushLineByte b s).draws = s.draws := rfl
@[simp] theorem pushLineByte_slc (b : Byte) (s : State) : (pushLineByte b s).slc = s.slc := rfl
@[simp] theorem pushLineByte_phase (b : Byte) (s : State) : (pushLineByte b s).phase = s.phase := rfl
@[simp] theorem pushLineByte_syncwNext (b : Byte) (s : State) : (pushLineByte b s).syncwNext = s.syncwNext := rfl
@[simp] theorem pushLineByte_syncwCur (b : Byte) (s : State) : (pushLineByte b s).syncwCur = s.syncwCur := rfl
@[simp] theorem pushLineByte_lt (b : Byte) (s : State) : (pushLineByte b s).lt = s.lt := rfl
@[simp] theorem pushLineByte_serBusy (b : Byte) (s : State) : (pushLineByte b s).serBusy = s.serBusy := rfl
@[simp] theorem pushLineByte_serLine (b : Byte) (s : State) : (pushLineByte b s).serLine = s.serLine := rfl
@[simp] theorem pushLineByte_serRow (b : Byte) (s : State) : (pushLineByte b s).serRow = s.serRow := rfl
@[simp] theorem pushLineByte_serIdx (b : Byte) (s : State) : (pushLineByte b s).serIdx = s.serIdx + 1 := rfl
@[simp] theorem pushLineByte_serBlank (b : Byte) (s : State) : (pushLineByte b s).serBlank = s.serBlank := rfl
@[simp] theorem pushLineByte_serBuf (b : Byte) (s : State) : (pushLineByte b s).serBuf = s.serBuf.set s.serIdx b := rfl
@[simp] theorem pushLineByte_init (b : Byte) (s : State) : (pushLineByte b s).init = s.init := rfl
@[simp] theorem pushLineByte_mem (b : Byte) (s : State) : (pushLineByte b s).mem = s.mem := rfl
@[simp] theorem pushLineByte_asmBuf (b : Byte) (s : State) : (pushLineByte b s).asmBuf = s.asmBuf := rfl
@[simp] theorem pushLineByte_asmIdx (b : Byte) (s : State) : (pushLineByte b s).asmIdx = s.asmIdx := rfl
@[simp] theorem pushLineByte_busy (b : Byte) (s : State) : (pushLineByte b s).busy = s.busy := rfl
@[simp] theorem pushLineByte_curCmd (b : Byte) (s : State) : (pushLineByte b s).curCmd = s.curCmd := rfl
@[simp] theorem pushLineByte_ops (b : Byte) (s : State) : (pushLineByte b s).ops = s.ops := rfl
@[simp] theorem pushLineByte_drawAge (b : Byte) (s : State) : (pushLineByte b s).drawAge = s.drawAge := rfl
@[simp] theorem pushLineByte_rdata (b : Byte) (s : State) : (pushLineByte b s).rdata = s.rdata := rfl
@[simp] theorem pushLineByte_cmdErr (b : Byte) (s : State) : (pushLineByte b s).cmdErr = s.cmdErr := rfl
@[simp] theorem pushLineByte_overlap (b : Byte) (s : State) : (pushLineByte b s).overlap = s.overlap := rfl
@[simp] theorem pushLineByte_irqPend (b : Byte) (s : State) : (pushLineByte b s).irqPend = s.irqPend := rfl
@[simp] theorem pushLineByte_irqEn (b : Byte) (s : State) : (pushLineByte b s).irqEn = s.irqEn := rfl
@[simp] theorem pushLineByte_tickStage (b : Byte) (s : State) : (pushLineByte b s).tickStage = s.tickStage := rfl
@[simp] theorem pushLineByte_syncN (b : Byte) (s : State) : (pushLineByte b s).syncN = s.syncN := rfl
@[simp] theorem pushLineByte_video (b : Byte) (s : State) : (pushLineByte b s).video = s.video := rfl

@[simp] theorem serFinish_cfg (s : State) : (serFinish s).cfg = s.cfg := rfl
@[simp] theorem serFinish_level (s : State) : (serFinish s).level = s.level := rfl
@[simp] theorem serFinish_turns (s : State) : (serFinish s).turns = s.turns := rfl
@[simp] theorem serFinish_choices (s : State) : (serFinish s).choices = s.choices := rfl
@[simp] theorem serFinish_hostBus (s : State) : (serFinish s).hostBus = s.hostBus := rfl
@[simp] theorem serFinish_readLog (s : State) : (serFinish s).readLog = s.readLog := rfl
@[simp] theorem serFinish_emitted (s : State) : (serFinish s).emitted = s.emitted ++ [{ line := s.serLine, bytes := (s.serBuf.set s.cfg.rowBytes 0).take (s.cfg.rowBytes + 1) }] := rfl
@[simp] theorem serFinish_draws (s : State) : (serFinish s).draws = s.draws := rfl
@[simp] theorem serFinish_slc (s : State) : (serFinish s).slc = s.slc := rfl
@[simp] theorem serFinish_phase (s : State) : (serFinish s).phase = s.phase := rfl
@[simp] theorem serFinish_syncwNext (s : State) : (serFinish s).syncwNext = s.syncwNext := rfl
@[simp] theorem serFinish_syncwCur (s : State) : (serFinish s).syncwCur = s.syncwCur := rfl
@[simp] theorem serFinish_lt (s : State) : (serFinish s).lt = s.lt := rfl
@[simp] theorem serFinish_serBusy (s : State) : (serFinish s).serBusy = false := rfl
@[simp] theorem serFinish_serLine (s : State) : (serFinish s).serLine = s.serLine := rfl
@[simp] theorem serFinish_serRow (s : State) : (serFinish s).serRow = s.serRow := rfl
@[simp] theorem serFinish_serIdx (s : State) : (serFinish s).serIdx = s.serIdx := rfl
@[simp] theorem serFinish_serBlank (s : State) : (serFinish s).serBlank = s.serBlank := rfl
@[simp] theorem serFinish_serBuf (s : State) : (serFinish s).serBuf = s.serBuf.set s.cfg.rowBytes 0 := rfl
@[simp] theorem serFinish_init (s : State) : (serFinish s).init = s.init := rfl
@[simp] theorem serFinish_mem (s : State) : (serFinish s).mem = s.mem := rfl
@[simp] theorem serFinish_asmBuf (s : State) : (serFinish s).asmBuf = s.asmBuf := rfl
@[simp] theorem serFinish_asmIdx (s : State) : (serFinish s).asmIdx = s.asmIdx := rfl
@[simp] theorem serFinish_busy (s : State) : (serFinish s).busy = s.busy := rfl
@[simp] theorem serFinish_curCmd (s : State) : (serFinish s).curCmd = s.curCmd := rfl
@[simp] theorem serFinish_ops (s : State) : (serFinish s).ops = s.ops := rfl
@[simp] theorem serFinish_drawAge (s : State) : (serFinish s).drawAge = s.drawAge := rfl
@[simp] theorem serFinish_rdata (s : State) : (serFinish s).rdata = s.rdata := rfl
@[simp] theorem serFinish_cmdErr (s : State) : (serFinish s).cmdErr = s.cmdErr := rfl
@[simp] theorem serFinish_overlap (s : State) : (serFinish s).overlap = s.overlap := rfl
@[simp] theorem serFinish_irqPend (s : State) : (serFinish s).irqPend = s.irqPend := rfl
@[simp] theorem serFinish_irqEn (s : State) : (serFinish s).irqEn = s.irqEn := rfl
@[simp] theorem serFinish_tickStage (s : State) : (serFinish s).tickStage = s.tickStage := rfl
@[simp] theorem serFinish_syncN (s : State) : (serFinish s).syncN = s.syncN := rfl
@[simp] theorem serFinish_video (s : State) : (serFinish s).video = s.video := rfl

@[simp] theorem driveOutputs_cfg (s : State) : (driveOutputs s).cfg = s.cfg := rfl
@[simp] theorem driveOutputs_level (s : State) : (driveOutputs s).level = s.level := rfl
@[simp] theorem driveOutputs_turns (s : State) : (driveOutputs s).turns = s.turns := rfl
@[simp] theorem driveOutputs_choices (s : State) : (driveOutputs s).choices = s.choices := rfl
@[simp] theorem driveOutputs_hostBus (s : State) : (driveOutputs s).hostBus = s.hostBus := rfl
@[simp] theorem driveOutputs_readLog (s : State) : (driveOutputs s).readLog = s.readLog := rfl
@[simp] theorem driveOutputs_emitted (s : State) : (driveOutputs s).emitted = s.emitted := rfl
@[simp] theorem driveOutputs_draws (s : State) : (driveOutputs s).draws = s.draws := rfl
@[simp] theorem driveOutputs_slc (s : State) : (driveOutputs s).slc = s.slc := rfl
@[simp] theorem driveOutputs_phase (s : State) : (driveOutputs s).phase = s.phase := rfl
@[simp] theorem driveOutputs_syncwNext (s : State) : (driveOutputs s).syncwNext = s.syncwNext := rfl
@[simp] theorem driveOutputs_syncwCur (s : State) : (driveOutputs s).syncwCur = s.syncwCur := rfl
@[simp] theorem driveOutputs_lt (s : State) : (driveOutputs s).lt = s.lt := rfl
@[simp] theorem driveOutputs_serBusy (s : State) : (driveOutputs s).serBusy = s.serBusy := rfl
@[simp] theorem driveOutputs_serLine (s : State) : (driveOutputs s).serLine = s.serLine := rfl
@[simp] theorem driveOutputs_serRow (s : State) : (driveOutputs s).serRow = s.serRow := rfl
@[simp] theorem driveOutputs_serIdx (s : State) : (driveOutputs s).serIdx = s.serIdx := rfl
@[simp] theorem driveOutputs_serBlank (s : State) : (driveOutputs s).serBlank = s.serBlank := rfl
@[simp] theorem driveOutputs_serBuf (s : State) : (driveOutputs s).serBuf = s.serBuf := rfl
@[simp] theorem driveOutputs_init (s : State) : (driveOutputs s).init = s.init := rfl
@[simp] theorem driveOutputs_mem (s : State) : (driveOutputs s).mem = s.mem := rfl
@[simp] theorem driveOutputs_asmBuf (s : State) : (driveOutputs s).asmBuf = s.asmBuf := rfl
@[simp] theorem driveOutputs_asmIdx (s : State) : (driveOutputs s).asmIdx = s.asmIdx := rfl
@[simp] theorem driveOutputs_busy (s : State) : (driveOutputs s).busy = s.busy := rfl
@[simp] theorem driveOutputs_curCmd (s : State) : (driveOutputs s).curCmd = s.curCmd := rfl
@[simp] theorem driveOutputs_ops (s : State) : (driveOutputs s).ops = s.ops := rfl
@[simp] theorem driveOutputs_drawAge (s : State) : (driveOutputs s).drawAge = s.drawAge := rfl
@[simp] theorem driveOutputs_rdata (s : State) : (driveOutputs s).rdata = s.rdata := rfl
@[simp] theorem driveOutputs_cmdErr (s : State) : (driveOutputs s).cmdErr = s.cmdErr := rfl
@[simp] theorem driveOutputs_overlap (s : State) : (driveOutputs s).overlap = s.overlap := rfl
@[simp] theorem driveOutputs_irqPend (s : State) : (driveOutputs s).irqPend = s.irqPend := rfl
@[simp] theorem driveOutputs_irqEn (s : State) : (driveOutputs s).irqEn = s.irqEn := rfl
@[simp] theorem driveOutputs_tickStage (s : State) : (driveOutputs s).tickStage = s.tickStage := rfl
@[simp] theorem driveOutputs_syncN (s : State) : (driveOutputs s).syncN = syncLevel s.cfg s.syncwCur s.lt := rfl
@[simp] theorem driveOutputs_video (s : State) : (driveOutputs s).video = videoLevel s.cfg s.phase s.serBuf s.lt := rfl

@[simp] theorem advanceTimer_cfg (s : State) : (advanceTimer s).cfg = s.cfg := rfl
@[simp] theorem advanceTimer_level (s : State) : (advanceTimer s).level = s.level := rfl
@[simp] theorem advanceTimer_turns (s : State) : (advanceTimer s).turns = s.turns := rfl
@[simp] theorem advanceTimer_choices (s : State) : (advanceTimer s).choices = s.choices := rfl
@[simp] theorem advanceTimer_hostBus (s : State) : (advanceTimer s).hostBus = s.hostBus := rfl
@[simp] theorem advanceTimer_readLog (s : State) : (advanceTimer s).readLog = s.readLog := rfl
@[simp] theorem advanceTimer_emitted (s : State) : (advanceTimer s).emitted = s.emitted := rfl
@[simp] theorem advanceTimer_draws (s : State) : (advanceTimer s).draws = s.draws := rfl
@[simp] theorem advanceTimer_slc (s : State) : (advanceTimer s).slc = s.slc := rfl
@[simp] theorem advanceTimer_phase (s : State) : (advanceTimer s).phase = s.phase := rfl
@[simp] theorem advanceTimer_syncwNext (s : State) : (advanceTimer s).syncwNext = s.syncwNext := rfl
@[simp] theorem advanceTimer_syncwCur (s : State) : (advanceTimer s).syncwCur = s.syncwCur := rfl
@[simp] theorem advanceTimer_lt (s : State) : (advanceTimer s).lt = (s.lt + 1) % s.cfg.lineCycles := rfl
@[simp] theorem advanceTimer_serBusy (s : State) : (advanceTimer s).serBusy = s.serBusy := rfl
@[simp] theorem advanceTimer_serLine (s : State) : (advanceTimer s).serLine = s.serLine := rfl
@[simp] theorem advanceTimer_serRow (s : State) : (advanceTimer s).serRow = s.serRow := rfl
@[simp] theorem advanceTimer_serIdx (s : State) : (advanceTimer s).serIdx = s.serIdx := rfl
@[simp] theorem advanceTimer_serBlank (s : State) : (advanceTimer s).serBlank = s.serBlank := rfl
@[simp] theorem advanceTimer_serBuf (s : State) : (advanceTimer s).serBuf = s.serBuf := rfl
@[simp] theorem advanceTimer_init (s : State) : (advanceTimer s).init = s.init := rfl
@[simp] theorem advanceTimer_mem (s : State) : (advanceTimer s).mem = s.mem := rfl
@[simp] theorem advanceTimer_asmBuf (s : State) : (advanceTimer s).asmBuf = s.asmBuf := rfl
@[simp] theorem advanceTimer_asmIdx (s : State) : (advanceTimer s).asmIdx = s.asmIdx := rfl
@[simp] theorem advanceTimer_busy (s : State) : (advanceTimer s).busy = s.busy := rfl
@[simp] theorem advanceTimer_curCmd (s : State) : (advanceTimer s).curCmd = s.curCmd := rfl
@[simp] theorem advanceTimer_ops (s : State) : (advanceTimer s).ops = s.ops := rfl
@[simp] theorem advanceTimer_drawAge (s : State) : (advanceTimer s).drawAge = s.drawAge := rfl
@[simp] theorem advanceTimer_rdata (s : State) : (advanceTimer s).rdata = s.rdata := rfl
@[simp] theorem advanceTimer_cmdErr (s : State) : (advanceTimer s).cmdErr = s.cmdErr := rfl
@[simp] theorem advanceTimer_overlap (s : State) : (advanceTimer s).overlap = s.overlap := rfl
@[simp] theorem advanceTimer_irqPend (s : State) : (advanceTimer s).irqPend = s.irqPend := rfl
@[simp] theorem advanceTimer_irqEn (s : State) : (advanceTimer s).irqEn = s.irqEn := rfl
@[simp] theorem advanceTimer_tickStage (s : State) : (advanceTimer s).tickStage = .noTick := rfl
@[simp] theorem advanceTimer_syncN (s : State) : (advanceTimer s).syncN = s.syncN := rfl
@[simp] theorem advanceTimer_video (s : State) : (advanceTimer s).video = s.video := rfl

@[simp] theorem commandDone_cfg (s : State) : (commandDone s).cfg = s.cfg := rfl
@[simp] theorem commandDone_level (s : State) : (commandDone s).level = s.level := rfl
@[simp] theorem commandDone_turns (s : State) : (commandDone s).turns = s.turns := rfl
@[simp] theorem commandDone_choices (s : State) : (commandDone s).choices = s.choices := rfl
@[simp] theorem commandDone_hostBus (s : State) : (commandDone s).hostBus = s.hostBus := rfl
@[simp] theorem commandDone_readLog (s : State) : (commandDone s).readLog = s.readLog := rfl
@[simp] theorem commandDone_emitted (s : State) : (commandDone s).emitted = s.emitted := rfl
@[simp] theorem commandDone_draws (s : State) : (commandDone s).draws = s.draws := rfl
@[simp] theorem commandDone_slc (s : State) : (commandDone s).slc = s.slc := rfl
@[simp] theorem commandDone_phase (s : State) : (commandDone s).phase = s.phase := rfl
@[simp] theorem commandDone_syncwNext (s : State) : (commandDone s).syncwNext = s.syncwNext := rfl
@[simp] theorem commandDone_syncwCur (s : State) : (commandDone s).syncwCur = s.syncwCur := rfl
@[simp] theorem commandDone_lt (s : State) : (commandDone s).lt = s.lt := rfl
@[simp] theorem commandDone_serBusy (s : State) : (commandDone s).serBusy = s.serBusy := rfl
@[simp] theorem commandDone_serLine (s : State) : (commandDone s).serLine = s.serLine := rfl
@[simp] theorem commandDone_serRow (s : State) : (commandDone s).serRow = s.serRow := rfl
@[simp] theorem commandDone_serIdx (s : State) : (commandDone s).serIdx = s.serIdx := rfl
@[simp] theorem commandDone_serBlank (s : State) : (commandDone s).serBlank = s.serBlank := rfl
@[simp] theorem commandDone_serBuf (s : State) : (commandDone s).serBuf = s.serBuf := rfl
@[simp] theorem commandDone_init (s : State) : (commandDone s).init = s.init := rfl
@[simp] theorem commandDone_mem (s : State) : (commandDone s).mem = s.mem := rfl
@[simp] theorem commandDone_asmBuf (s : State) : (commandDone s).asmBuf = s.asmBuf := rfl
@[simp] theorem commandDone_asmIdx (s : State) : (commandDone s).asmIdx = s.asmIdx := rfl
@[simp] theorem commandDone_busy (s : State) : (commandDone s).busy = false := rfl
@[simp] theorem commandDone_curCmd (s : State) : (commandDone s).curCmd = none := rfl
@[simp] theorem commandDone_ops (s : State) : (commandDone s).ops = [] := rfl
@[simp] theorem commandDone_drawAge (s : State) : (commandDone s).drawAge = 0 := rfl
@[simp] theorem commandDone_rdata (s : State) : (commandDone s).rdata = s.rdata := rfl
@[simp] theorem commandDone_cmdErr (s : State) : (commandDone s).cmdErr = s.cmdErr := rfl
@[simp] theorem commandDone_overlap (s : State) : (commandDone s).overlap = s.overlap := rfl
@[simp] theorem commandDone_irqPend (s : State) : (commandDone s).irqPend = s.irqPend := rfl
@[simp] theorem commandDone_irqEn (s : State) : (commandDone s).irqEn = s.irqEn := rfl
@[simp] theorem commandDone_tickStage (s : State) : (commandDone s).tickStage = s.tickStage := rfl
@[simp] theorem commandDone_syncN (s : State) : (commandDone s).syncN = s.syncN := rfl
@[simp] theorem commandDone_video (s : State) : (commandDone s).video = s.video := rfl

end Sys2Proof.Machine
end

