-- ==== Sys2Proof/Laws/Memory.lean ====
section
/-! SUPPORT. The framebuffer: reading after a write (R66), and the canonical form that every write keeps. -/

namespace Sys2Proof.Machine

theorem lookupCells_storeCells (cells : List Host.Cell) (a b : Nat) (v : Byte) :
    lookupCells (storeCells cells a v) b = if b = a then some v else lookupCells cells b := by
  induction cells with
  | nil => simp [storeCells, lookupCells]
  | cons c rest ih =>
    obtain ⟨k, u⟩ := c
    simp only [storeCells]
    split
    · rfl
    · split
      · subst_vars; by_cases h : b = k <;> simp [lookupCells, h]
      · by_cases h : b = k
        · simp [lookupCells, h]; omega
        · simp [lookupCells, h, ih]

/-- A write gives its byte its value and leaves every other byte alone (R66). -/
@[simp] theorem Memory.lookup_store (m : Memory) (a b : Nat) (v : Byte) :
    (m.store a v).lookup b = if b = a then some v else m.lookup b :=
  lookupCells_storeCells m.cells a b v

theorem mem_storeCells {cells : List Host.Cell} {a : Nat} {v : Byte} {c : Host.Cell}
    (h : c ∈ storeCells cells a v) : c = (a, v) ∨ c ∈ cells := by
  induction cells with
  | nil => simpa [storeCells] using h
  | cons d rest ih =>
    obtain ⟨k, u⟩ := d
    simp only [storeCells] at h
    split at h
    · simpa using h
    · split at h
      · rcases List.mem_cons.1 h with h | h
        · exact .inl h
        · exact .inr (List.mem_cons_of_mem _ h)
      · rcases List.mem_cons.1 h with h | h
        · exact .inr (h ▸ List.mem_cons_self ..)
        · exact (ih h).imp_right (List.mem_cons_of_mem _)

/-- A write keeps the canonical form. -/
theorem Memory.wf_store {m : Memory} (h : m.wf) (a : Nat) (v : Byte) : (m.store a v).wf := by
  obtain ⟨cells⟩ := m
  show ((storeCells cells a v).map Prod.fst).Pairwise (· < ·)
  replace h : (cells.map Prod.fst).Pairwise (· < ·) := h
  induction cells with
  | nil => simp [storeCells]
  | cons c rest ih =>
    obtain ⟨k, u⟩ := c
    rw [List.map_cons, List.pairwise_cons] at h
    obtain ⟨hk, hr⟩ := h
    simp only [storeCells]
    split
    · rename_i hak
      refine List.pairwise_cons.2 ⟨?_, List.pairwise_cons.2 ⟨hk, hr⟩⟩
      intro x hx
      rcases List.mem_cons.1 hx with rfl | hx
      · exact hak
      · exact Nat.lt_trans hak (hk x hx)
    · split
      · rename_i hak; subst hak; exact List.pairwise_cons.2 ⟨hk, hr⟩
      · refine List.pairwise_cons.2 ⟨?_, ih hr⟩
        intro x hx
        obtain ⟨c, hc, rfl⟩ := List.mem_map.1 hx
        rcases mem_storeCells hc with rfl | hc
        · show k < a; omega
        · exact hk _ (List.mem_map_of_mem hc)

/-- The framebuffer after reset is in its canonical form. -/
theorem reset_mem_wf : State.reset.mem.wf := List.Pairwise.nil

/-- An address below every listed one is unlisted. -/
theorem lookupCells_none_of_lt {cells : List Host.Cell} {a : Nat} (h : ∀ c ∈ cells, a < c.1) :
    lookupCells cells a = none := by
  induction cells with
  | nil => rfl
  | cons c rest ih =>
    obtain ⟨k, u⟩ := c
    have hk : a < k := h _ (List.mem_cons_self ..)
    have hne : a ≠ k := by omega
    simp [lookupCells, hne, ih fun c hc => h c (List.mem_cons_of_mem _ hc)]

end Sys2Proof.Machine
end

