-- ==== Sys2Proof/Laws/Draw.lean ====
section
/-! SUPPORT. What each operation of the draw unit can do, said once: reads and writes of a byte, micro-ops, draw steps
and whole commands (R190, R194). -/

namespace Sys2Proof.Machine

@[simp] theorem andThen_next (s : State) (f : State → Out) : andThen (.next s) f = f s := rfl
@[simp] theorem andThen_fault (r : Fault) (f : State → Out) : andThen (.fault r) f = .fault r := rfl
@[simp] theorem andThen_refused (r : Refusal) (f : State → Out) : andThen (.refused r) f = .refused r := rfl

/-- A sequence that answers a next state answered one in its first part. -/
theorem andThen_eq_next {o : Out} {f : State → Out} {t : State} (h : andThen o f = .next t) :
    ∃ s, o = .next s ∧ f s = .next t := by
  cases o with
  | next s => exact ⟨s, rfl, h⟩
  | fault r => cases h
  | refused r => cases h

/-- What a read of byte `a` gives (R67). -/
def readValue (a : Nat) (s : State) : Byte := (s.mem.lookup a).getD (Config.freeByte s.draws)

/-- The free-byte counter after a read of byte `a` (R67). -/
def drawsAfterRead (a : Nat) (s : State) : Nat := if s.mem.written a then s.draws else s.draws + 1

theorem readByte_eq (a : Nat) (s : State) :
    readByte a s = (readValue a s, { s with draws := drawsAfterRead a s }) := by
  unfold readByte readValue drawsAfterRead Memory.written
  cases h : s.mem.lookup a <;> simp [countDraw]

/-- A framebuffer write (R194). -/
theorem drawWrite_eq (a : Nat) (v : Byte) (s : State) :
    drawWrite a v s =
      { s with mem := s.mem.store a v, overlap := s.overlap || decide (s.phase = .activePicture) } := by
  unfold drawWrite
  by_cases h : s.phase = .activePicture <;> simp [h, storeByte, raiseError]

/-- A pixel read-modify-write (R191, R194). -/
theorem rmwByte_eq (a k : Nat) (kind : PixelKind) (s : State) :
    rmwByte a k kind s =
      { s with
        mem := s.mem.store a (pixelByte kind k (readValue a s))
        overlap := s.overlap || decide (s.phase = .activePicture)
        draws := drawsAfterRead a s } := by
  simp [rmwByte, readByte_eq, drawWrite_eq]

theorem rdataFromByte_eq (a : Nat) (s : State) :
    rdataFromByte a s = { s with rdata := readValue a s, draws := drawsAfterRead a s } := by
  simp [rdataFromByte, readByte_eq, setRdata]

theorem rdataFromBit_eq (a k : Nat) (s : State) :
    rdataFromBit a k s =
      { s with
        rdata := (BitVec.ofBool ((readValue a s).getLsbD k)).setWidth 8
        draws := drawsAfterRead a s } := by
  simp [rdataFromBit, readByte_eq, setRdata]

theorem atByte_eq_next {a : Nat} {s t : State} {f : State → State} (h : atByte a s f = .next t) :
    a < s.cfg.fbBytes ∧ t = f s := by
  unfold atByte at h
  split at h
  · injection h with h; exact ⟨‹_›, h.symm⟩
  · cases h

@[simp] theorem atByte_inside {a : Nat} {s : State} {f : State → State} (h : a < s.cfg.fbBytes) :
    atByte a s f = .next (f s) := by simp [atByte, h]

theorem getLsbD_bitMask (k j : Nat) (hj : j < 8) : (1#8 <<< k).getLsbD j = decide (j = k) := by
  rw [BitVec.getLsbD_shiftLeft, BitVec.getLsbD_one]
  rcases Nat.lt_trichotomy j k with h | h | h
  · simp [h, Nat.ne_of_lt h]
  · simp [h, h ▸ hj]
  · have h1 : ¬ j < k := by omega
    have h2 : j - k ≠ 0 := by omega
    have h3 : j ≠ k := by omega
    simp [h2, h3]

/-- Bit `j` of what a pixel operation on bit `k` writes back (R190, R191): only bit `k` changes. -/
theorem getLsbD_pixelByte (kind : PixelKind) (k j : Nat) (b : Byte) (hj : j < 8) :
    (pixelByte kind k b).getLsbD j =
      if j = k then (match kind with | .set => true | .clear => false | .flip => !b.getLsbD j)
      else b.getLsbD j := by
  have hm := getLsbD_bitMask k j hj
  rcases eq_or_ne j k with rfl | h <;> cases kind <;>
    simp only [pixelByte, BitVec.getLsbD_or, BitVec.getLsbD_and, BitVec.getLsbD_xor, BitVec.getLsbD_not, hm, hj] <;>
    simp_all

/-- Everything a micro-op can do (R190). -/
theorem performOp_cases {op : MicroOp} {s t : State} (h : performOp op s = .next t) :
    (∃ a k kind, op = .rmw a k kind ∧ a < s.cfg.fbBytes ∧ t = rmwByte a k kind s) ∨
    (∃ a v, op = .wr a v ∧ a < s.cfg.fbBytes ∧ t = drawWrite a v s) ∨
    (op = .setinit ∧ t = { s with init := true }) ∨
    (∃ a k, op = .rdbit a k ∧ a < s.cfg.fbBytes ∧ t = rdataFromBit a k s) ∨
    (∃ a, op = .rdb a ∧ a < s.cfg.fbBytes ∧ t = rdataFromByte a s) ∨
    (∃ v, op = .setrd v ∧ t = setRdata v s) ∨
    (∃ w, op = .err w ∧ t = raiseError .cmdError s) ∨
    (op = .skip ∧ t = s) := by
  cases op with
  | rmw a k kind => exact .inl ⟨a, k, kind, rfl, atByte_eq_next h⟩
  | wr a v => exact .inr (.inl ⟨a, v, rfl, atByte_eq_next h⟩)
  | setinit => injection h with h; exact .inr (.inr (.inl ⟨rfl, h.symm⟩))
  | rdbit a k => exact .inr (.inr (.inr (.inl ⟨a, k, rfl, atByte_eq_next h⟩)))
  | rdb a => exact .inr (.inr (.inr (.inr (.inl ⟨a, rfl, atByte_eq_next h⟩))))
  | setrd v => injection h with h; exact .inr (.inr (.inr (.inr (.inr (.inl ⟨v, rfl, h.symm⟩)))))
  | err w => injection h with h; exact .inr (.inr (.inr (.inr (.inr (.inr (.inl ⟨w, rfl, h.symm⟩))))))
  | skip => injection h with h; exact .inr (.inr (.inr (.inr (.inr (.inr (.inr ⟨rfl, h.symm⟩))))))

/-- The frame of a micro-op: it touches `init`, the framebuffer, the free-byte counter, `rdata` and the two flags, and
nothing else. -/
theorem performOp_frame {op : MicroOp} {s t : State} (h : performOp op s = .next t) :
    t = { s with
          init := t.init
          mem := t.mem
          draws := t.draws
          rdata := t.rdata
          cmdErr := t.cmdErr
          overlap := t.overlap } := by
  rcases performOp_cases h with ⟨a, k, kind, -, -, rfl⟩ | ⟨a, v, -, -, rfl⟩ | ⟨-, rfl⟩ | ⟨a, k, -, -, rfl⟩ |
    ⟨a, -, -, rfl⟩ | ⟨v, -, rfl⟩ | ⟨w, -, rfl⟩ | ⟨-, rfl⟩ <;>
    simp [rmwByte_eq, drawWrite_eq, rdataFromBit_eq, rdataFromByte_eq, setRdata, raiseError]

/-- A micro-op inside the framebuffer is performed. -/
theorem performOp_inside {op : MicroOp} {s : State} (h : opInside s.cfg op = true) :
    ∃ t, performOp op s = .next t := by
  cases op <;> simp_all [opInside, performOp]

/-- A micro-op keeps the canonical form of the framebuffer. -/
theorem performOp_mem_wf {op : MicroOp} {s t : State} (h : performOp op s = .next t) (hm : s.mem.wf) : t.mem.wf := by
  rcases performOp_cases h with ⟨a, k, kind, -, -, rfl⟩ | ⟨a, v, -, -, rfl⟩ | ⟨-, rfl⟩ | ⟨a, k, -, -, rfl⟩ |
    ⟨a, -, -, rfl⟩ | ⟨v, -, rfl⟩ | ⟨w, -, rfl⟩ | ⟨-, rfl⟩ <;>
    first
    | exact hm
    | (rw [rmwByte_eq]; exact Memory.wf_store hm _ _)
    | (rw [drawWrite_eq]; exact Memory.wf_store hm _ _)
    | (rw [rdataFromBit_eq]; exact hm)
    | (rw [rdataFromByte_eq]; exact hm)

@[simp] theorem runOps_nil (s : State) : runOps [] s = .next (leaveOps [] s) := rfl
@[simp] theorem runOps_cons (op : MicroOp) (rest : List MicroOp) (s : State) :
    runOps (op :: rest) s = andThen (performOp op s) (runOps rest) := rfl

@[simp] theorem finishPending_idle {s : State} (h : s.busy = false) : finishPending s = .next s := by
  simp [finishPending, h]

/-- An idle draw unit takes the command at once (R190, R263). -/
theorem runCommand_idle {s : State} (h : s.busy = false) (c : Command) (plan : State → List MicroOp) :
    runCommand c plan s = runOps (plan s) (beginCommand c (plan s) s) := by
  simp [runCommand, h]

/-- What a list of micro-ops that runs to its end leaves: an idle draw unit with no command, and the frame of its
micro-ops. -/
theorem runOps_frame {plan : List MicroOp} {s t : State} (h : runOps plan s = .next t) :
    t = { s with
          init := t.init
          mem := t.mem
          draws := t.draws
          rdata := t.rdata
          cmdErr := t.cmdErr
          overlap := t.overlap
          curCmd := none
          ops := []
          busy := false
          drawAge := 0 } := by
  induction plan generalizing s with
  | nil => injection h with h; subst h; rfl
  | cons op rest ih =>
    obtain ⟨u, hu, ht⟩ := andThen_eq_next h
    have h1 := performOp_frame hu
    have h2 := ih ht
    rw [h2, h1]

/-- A list of micro-ops inside the framebuffer runs to its end. -/
theorem runOps_inside {plan : List MicroOp} {s : State} (h : ∀ op ∈ plan, opInside s.cfg op = true) :
    ∃ t, runOps plan s = .next t := by
  induction plan generalizing s with
  | nil => exact ⟨_, rfl⟩
  | cons op rest ih =>
    obtain ⟨u, hu⟩ := performOp_inside (h op (List.mem_cons_self ..))
    have hcfg : u.cfg = s.cfg := by rw [performOp_frame hu]
    rw [runOps_cons, hu]
    exact ih fun o ho => hcfg ▸ h o (List.mem_cons_of_mem _ ho)

/-- A command keeps the canonical form of the framebuffer. -/
theorem runOps_mem_wf {plan : List MicroOp} {s t : State} (h : runOps plan s = .next t) (hm : s.mem.wf) : t.mem.wf := by
  induction plan generalizing s with
  | nil => injection h with h; subst h; exact hm
  | cons op rest ih =>
    obtain ⟨u, hu, ht⟩ := andThen_eq_next h
    exact ih ht (performOp_mem_wf hu hm)

/-- Everything a draw step can do (R190). -/
theorem drawStep_cases {s t : State} (h : drawStep s = .next t) :
    (s.busy = false ∧ t = s) ∨ (s.busy = true ∧ s.ops = [] ∧ t = leaveOps [] s) ∨
    (∃ op rest u, s.busy = true ∧ s.ops = op :: rest ∧ performOp op s = .next u ∧ t = leaveOps rest u) := by
  unfold drawStep at h
  split at h
  · split at h
    · obtain ⟨u, hu, ht⟩ := andThen_eq_next h
      injection ht with ht
      exact .inr (.inr ⟨_, _, u, ‹_›, ‹_›, hu, ht.symm⟩)
    · injection h with h
      exact .inr (.inl ⟨‹_›, ‹_›, h.symm⟩)
  · injection h with h
    exact .inl ⟨by simp_all, h.symm⟩

/-- The frame of a draw step: its micro-op's, and the draw unit's own fields. -/
theorem drawStep_frame {s t : State} (h : drawStep s = .next t) :
    t = { s with
          init := t.init
          mem := t.mem
          draws := t.draws
          rdata := t.rdata
          cmdErr := t.cmdErr
          overlap := t.overlap
          curCmd := t.curCmd
          ops := t.ops
          busy := t.busy
          drawAge := t.drawAge } := by
  rcases drawStep_cases h with ⟨-, rfl⟩ | ⟨-, -, rfl⟩ | ⟨op, rest, u, -, -, hu, rfl⟩
  · rfl
  · rfl
  · rw [performOp_frame hu]; rfl

/-- The frame of any number of draw steps. -/
theorem drawSteps_frame {n : Nat} {s t : State} (h : drawSteps n s = .next t) :
    t = { s with
          init := t.init
          mem := t.mem
          draws := t.draws
          rdata := t.rdata
          cmdErr := t.cmdErr
          overlap := t.overlap
          curCmd := t.curCmd
          ops := t.ops
          busy := t.busy
          drawAge := t.drawAge } := by
  induction n generalizing s with
  | zero => injection h with h; subst h; rfl
  | succ n ih =>
    obtain ⟨u, hu, ht⟩ := andThen_eq_next h
    rw [ih ht, drawStep_frame hu]

end Sys2Proof.Machine
end

