-- ==== Sys2Proof/Laws/Encoding.lean ====
section
/-! SUPPORT. The header and operand words as numbers (R90, R92), and their fields. -/

namespace Sys2Proof

theorem toNat_header (op : BitVec 4) (imm : Byte) : (header op imm).toNat = op.toNat * 4096 + imm.toNat := by
  show BitVec.toNat (op ++ (0#4 ++ imm)) = _
  rw [BitVec.toNat_append, BitVec.toNat_append, ← Nat.shiftLeft_add_eq_or_of_lt (by simpa using (by omega)),
    ← Nat.shiftLeft_add_eq_or_of_lt imm.isLt]
  simp [Nat.shiftLeft_eq]

theorem opField_eq (h : Word) : opField h = h.toNat / 4096 := by
  have := h.isLt
  simp [opField, Nat.shiftRight_eq_div_pow]
  omega

theorem toNat_rsvField (h : Word) : (rsvField h).toNat = h.toNat / 256 % 16 := by
  simp [rsvField, Nat.shiftRight_eq_div_pow]

theorem toNat_immField (h : Word) : (immField h).toNat = h.toNat % 256 := by
  simp [immField]

@[simp] theorem opField_header (op : BitVec 4) (imm : Byte) : opField (header op imm) = op.toNat := by
  rw [opField_eq, toNat_header]; omega

@[simp] theorem rsvField_header (op : BitVec 4) (imm : Byte) : rsvField (header op imm) = 0#4 := by
  apply BitVec.eq_of_toNat_eq
  rw [toNat_rsvField, toNat_header]
  simp; omega

@[simp] theorem immField_header (op : BitVec 4) (imm : Byte) : immField (header op imm) = imm := by
  apply BitVec.eq_of_toNat_eq
  rw [toNat_immField, toNat_header]; omega

/-- A word with `RSV = 0` is the header of its own opcode and immediate. -/
theorem header_of_fields {h : Word} (hr : rsvField h = 0#4) : header (h.extractLsb' 12 4) (immField h) = h := by
  apply BitVec.eq_of_toNat_eq
  have h1 := congrArg BitVec.toNat hr
  have h2 := opField_eq h
  have h3 := toNat_immField h
  rw [toNat_rsvField] at h1
  unfold opField at h2
  rw [toNat_header, h2, h3]
  simp at h1
  omega

/-- A coordinate in range is the value of its word (R92). -/
@[simp] theorem int16_coordWord {x : Int} (h1 : -32768 ≤ x) (h2 : x ≤ 32767) : int16 (coordWord x) = x := by
  unfold int16 coordWord
  rw [BitVec.toInt_ofInt, Int.bmod_eq_of_le_mul_two] <;> omega

@[simp] theorem coordWord_int16 (w : Word) : coordWord (int16 w) = w := by simp [int16, coordWord]

/-- Every word is a coordinate in range (R92). -/
@[simp] theorem coordOk_int16 (w : Word) : coordOk (int16 w) := by
  unfold int16 coordOk
  have := w.toInt_lt
  have := w.le_toInt
  constructor <;> omega

end Sys2Proof
end

