-- ==== Sys2Proof/Laws/PerInstr.lean ====
section
/-! SUPPORT. Statements made of every command, one lemma per constructor of Instr. -/

namespace Sys2Proof.Laws

/-- The words of a command start with a legal header and are as many as its opcode asks for (R91, R94). -/
def Framed.Statement (i : Instr) : Prop :=
  ∃ h operands, encode i = h :: operands ∧ headerLegal h = true ∧ operands.length + 1 = cmdLen (opField h)

theorem Framed.nop : Framed.Statement .nop := ⟨_, _, rfl, by decide, by decide⟩

theorem Framed.init : Framed.Statement .init := ⟨_, _, rfl, by decide, by decide⟩

theorem Framed.clear (p : Byte) : Framed.Statement (.clear p) :=
  ⟨_, _, rfl, by simp [headerLegal, takesImm], by simp [cmdLen]⟩

theorem Framed.pset (x y : Int) : Framed.Statement (.pset x y) := ⟨_, _, rfl, by decide, by simp [cmdLen]⟩

theorem Framed.preset (x y : Int) : Framed.Statement (.preset x y) := ⟨_, _, rfl, by decide, by simp [cmdLen]⟩

theorem Framed.pflip (x y : Int) : Framed.Statement (.pflip x y) := ⟨_, _, rfl, by decide, by simp [cmdLen]⟩

theorem Framed.line (x0 y0 x1 y1 : Int) : Framed.Statement (.line x0 y0 x1 y1) :=
  ⟨_, _, rfl, by decide, by simp [cmdLen]⟩

theorem Framed.digit (g : Nat) (x y : Int) : Framed.Statement (.digit g x y) :=
  ⟨_, _, rfl, by simp [headerLegal, takesImm], by simp [cmdLen]⟩

theorem Framed.pget (x y : Int) : Framed.Statement (.pget x y) := ⟨_, _, rfl, by decide, by simp [cmdLen]⟩

theorem Framed.rdbyte (k : Nat) : Framed.Statement (.rdbyte k) := ⟨_, _, rfl, by decide, by simp [cmdLen]⟩

end Sys2Proof.Laws
end

