-- ==== Sys2Proof/Laws/Step.lean ====
section
/-! SUPPORT. What a turn can do, said once for each shared operation: the command assembler, the host's accesses, TICK, the
serializer and the step around them. -/

namespace Sys2Proof.Machine

/-- A step takes the oldest turn of the list. -/
theorem step_turn {s : State} {t : Turn} {ts : List Turn} (hw : s.cfg.wf) (h : s.turns = t :: ts) :
    step s = takeTurn t { s with turns := ts } := by
  unfold step; rw [if_pos hw]; simp only [nextTurn, h]

/-- With no turn listed a step takes a free one (R13). -/
theorem step_free {s : State} (hw : s.cfg.wf) (h : s.turns = []) :
    step s = takeTurn (Config.freeTurn s.choices) { s with choices := s.choices + 1 } := by
  unfold step; rw [if_pos hw]; simp only [nextTurn, h]

/-- A step of an ill-formed configuration is the fault `ConfigRefused` (R7, R295). -/
theorem step_refused {s : State} (hw : ¬s.cfg.wf) : step s = .fault .configRefused := if_neg hw

/-- A step that answers a next state took a turn of a well-formed machine. -/
theorem step_eq_next {s t : State} (h : step s = .next t) :
    s.cfg.wf ∧ takeTurn (nextTurn s).1 (nextTurn s).2 = .next t := by
  unfold step at h
  split at h
  · exact ⟨‹_›, h⟩
  · cases h

@[simp] theorem run_zero (s : State) : Host.Core.run Sys2Proof.core 0 s = .next s := rfl

/-- A run of one step more starts with that step. -/
theorem run_succ {s t : State} (h : step s = .next t) (k : Nat) :
    Host.Core.run Sys2Proof.core (k + 1) s = Host.Core.run Sys2Proof.core k t := by
  have hc : Sys2Proof.core.step s = .next t := h
  simp only [Host.Core.run, hc]

/-- A run is cut where one likes. -/
theorem run_add {s t : State} {k : Nat} (h : Host.Core.run Sys2Proof.core k s = .next t) (n : Nat) :
    Host.Core.run Sys2Proof.core (k + n) s = Host.Core.run Sys2Proof.core n t := by
  induction k generalizing s with
  | zero => injection h with h; subst h; simp
  | succ k ih =>
    cases hs : step s with
    | next u => rw [run_succ hs] at h; rw [Nat.add_right_comm, run_succ hs]; exact ih h
    | fault r => exfalso; have hc : Sys2Proof.core.step s = .fault r := hs; simp [Host.Core.run, hc] at h
    | refused r => exfalso; have hc : Sys2Proof.core.step s = .refused r := hs; simp [Host.Core.run, hc] at h

/-- Taking the next turn from the list, or choosing one, changes the list and the counter of free choices alone. -/
theorem nextTurn_frame (s : State) :
    (nextTurn s).2 = { s with turns := (nextTurn s).2.turns, choices := (nextTurn s).2.choices } := by
  unfold nextTurn; split <;> rfl

/-- The last word of a command completes it (R262). -/
theorem takeWord_last {w : Word} {s : State} (h : s.asmIdx.toNat + 1 = asmLength (asmStore w s)) :
    takeWord w s = ({ s with asmBuf := asmStore w s, asmIdx := 0 },
      some (commandOf ((asmStore w s).toList.take (asmLength (asmStore w s))))) := by
  unfold takeWord; rw [if_pos h]

/-- Every other word is only stored (R262). -/
theorem takeWord_more {w : Word} {s : State} (h : s.asmIdx.toNat + 1 ≠ asmLength (asmStore w s)) :
    takeWord w s = ({ s with asmBuf := asmStore w s, asmIdx := s.asmIdx + 1 }, none) := by
  unfold takeWord; rw [if_neg h]

/-- A CMD write that completes a command hands it to the draw unit (R190, R262). -/
theorem writeCmd_last {w : Word} {s : State} (h : s.asmIdx.toNat + 1 = asmLength (asmStore w s)) :
    writeCmd w s = acceptCommand (commandOf ((asmStore w s).toList.take (asmLength (asmStore w s))))
      { s with asmBuf := asmStore w s, asmIdx := 0 } := by
  unfold writeCmd; rw [takeWord_last h]

/-- Every other CMD write only stores its word (R262). -/
theorem writeCmd_more {w : Word} {s : State} (h : s.asmIdx.toNat + 1 ≠ asmLength (asmStore w s)) :
    writeCmd w s = { s with asmBuf := asmStore w s, asmIdx := s.asmIdx + 1 } := by
  unfold writeCmd; rw [takeWord_more h]

/-- What a CMD write can change: the assembler, and what accepting a command sets. -/
theorem writeCmd_frame (w : Word) (s : State) :
    writeCmd w s = { s with
      asmBuf := (writeCmd w s).asmBuf
      asmIdx := (writeCmd w s).asmIdx
      curCmd := (writeCmd w s).curCmd
      ops := (writeCmd w s).ops
      busy := (writeCmd w s).busy
      drawAge := (writeCmd w s).drawAge } := by
  by_cases hl : s.asmIdx.toNat + 1 = asmLength (asmStore w s)
  · rw [writeCmd_last hl]; rfl
  · rw [writeCmd_more hl]

/-- A list of words whose header is illegal is no command (R94, R96). -/
theorem commandOf_illegal {h : Word} {operands : List Word} (hh : headerLegal h = false) :
    commandOf (h :: operands) = .illegal h := by
  have key : ∃ e, decode (h :: operands) = .rejected e := by
    simp only [decode]
    by_cases h1 : 9 < opField h
    · exact ⟨_, if_pos h1⟩
    · rw [if_neg h1]
      by_cases h2 : rsvField h ≠ 0#4
      · exact ⟨_, if_pos h2⟩
      · rw [if_neg h2]
        by_cases h3 : immField h ≠ 0#8 ∧ takesImm (opField h) = false
        · exact ⟨_, if_pos h3⟩
        · exfalso
          have h2 : rsvField h = 0#4 := not_not.1 h2
          have h1 : opField h ≤ 9 := by omega
          simp only [headerLegal, h1, h2, decide_true, beq_self_eq_true, Bool.true_and, Bool.or_eq_false_iff,
            beq_eq_false_iff_ne] at hh
          exact h3 hh
  obtain ⟨e, he⟩ := key
  simp [commandOf, he]

/-- A register read (R260, R261). -/
theorem hostStep_read {s : State} {a : BitVec 3} {rest : List HostAccess} (h : s.hostBus = .read a :: rest) :
    hostStep s = { s with hostBus := rest, readLog := s.readLog ++ [{ addr := a, data := regRead a s }] } := by
  simp only [hostStep, h]

/-- A write of a register other than CMD (R264 to R266). -/
theorem hostStep_other {s : State} {a : BitVec 3} {d : Word} {rest : List HostAccess}
    (h : s.hostBus = .write a d :: rest) (ha : a ≠ cmdAddr) (hn : nextCycles a s = false) :
    hostStep s = writeOther a d { s with hostBus := rest } := by
  simp only [hostStep, h]; rw [if_neg ha, hn]; rfl

/-- A write of IRQ_PEND after the TICK of the cycle in progress is the next cycle's (R304, R345). -/
theorem hostStep_late {s : State} {a : BitVec 3} {d : Word} {rest : List HostAccess}
    (h : s.hostBus = .write a d :: rest) (ha : a ≠ cmdAddr) (hn : nextCycles a s = true) : hostStep s = s := by
  simp only [hostStep, h]; rw [if_neg ha, hn]; rfl

/-- A CMD write to an idle draw unit (R262). -/
theorem hostStep_cmd {s : State} {d : Word} {rest : List HostAccess} (h : s.hostBus = .write cmdAddr d :: rest)
    (hb : s.busy = false) : hostStep s = writeCmd d { s with hostBus := rest } := by
  simp only [hostStep, h, hb]; rfl

/-- A CMD write waits for a busy draw unit (R263). -/
theorem hostStep_wait {s : State} {d : Word} {rest : List HostAccess} (h : s.hostBus = .write cmdAddr d :: rest)
    (hb : s.busy = true) : hostStep s = s := by
  simp only [hostStep, h, hb]; rfl

/-- What a register write other than CMD can change: the two interrupt registers. -/
theorem writeOther_frame (a : BitVec 3) (d : Word) (s : State) :
    writeOther a d s = { s with irqPend := (writeOther a d s).irqPend, irqEn := (writeOther a d s).irqEn } := by
  unfold writeOther; split <;> rfl

/-- What any access of the host can change: its own lists, the interrupt registers, the assembler, and what accepting a
command sets. -/
theorem hostStep_frame (s : State) :
    hostStep s = { s with
      hostBus := (hostStep s).hostBus
      readLog := (hostStep s).readLog
      irqPend := (hostStep s).irqPend
      irqEn := (hostStep s).irqEn
      asmBuf := (hostStep s).asmBuf
      asmIdx := (hostStep s).asmIdx
      curCmd := (hostStep s).curCmd
      ops := (hostStep s).ops
      busy := (hostStep s).busy
      drawAge := (hostStep s).drawAge } := by
  cases h : s.hostBus with
  | nil => rw [show hostStep s = s by simp only [hostStep, h]]
  | cons acc rest =>
    cases acc with
    | read a => rw [hostStep_read h]
    | write a d =>
      by_cases ha : a = cmdAddr
      · subst ha
        cases hb : s.busy with
        | true => rw [hostStep_wait h hb]
        | false => rw [hostStep_cmd h hb, writeCmd_frame]
      · cases hn : nextCycles a s with
        | true => rw [hostStep_late h ha hn]
        | false => rw [hostStep_other h ha hn, writeOther_frame]

/-- TICK of line `c`, whole (R125, R163). -/
theorem startLine_eq (c : Nat) (s : State) :
    startLine c s = { s with
      phase := phaseOf s.cfg c
      syncwCur := s.syncwNext
      syncwNext := widthCode (phaseOf s.cfg ((c + 1) % s.cfg.lines))
      irqPend := s.irqPend ||| tickEvents s.cfg c
      serBusy := s.serBusy || decide (phaseOf s.cfg c = .activePicture)
      serLine := if phaseOf s.cfg c = .activePicture then s.slc else s.serLine
      serRow := if phaseOf s.cfg c = .activePicture then rowOf s.cfg s.slc.toNat else s.serRow
      serIdx := if phaseOf s.cfg c = .activePicture then 0 else s.serIdx
      serBlank := if phaseOf s.cfg c = .activePicture then !s.init else s.serBlank
      slc := BitVec.ofNat 9 ((c + 1) % s.cfg.lines) } := by
  by_cases h : phaseOf s.cfg c = .activePicture <;> simp [startLine, raiseEvents, serializerStart, h]

/-- A TICK that answers a next state started the line its counter names (R125, R128). -/
theorem tick_eq_next {s t : State} (h : tick s = .next t) : s.slc.toNat < s.cfg.lines ∧ t = startLine s.slc.toNat s := by
  unfold tick at h
  split at h
  · injection h with h; exact ⟨‹_›, h.symm⟩
  · cases h

/-- Everything a serializer byte read can do (R165, R67). -/
theorem serReadByte_cases {s t : State} (h : serReadByte s = .next t) :
    (s.serBlank = true ∧ t = pushLineByte 0 s) ∨
    (s.serBlank = false ∧ s.serRow * s.cfg.rowBytes + s.serIdx < s.cfg.fbBytes ∧
      t = pushLineByte (readValue (s.serRow * s.cfg.rowBytes + s.serIdx) s)
        { s with draws := drawsAfterRead (s.serRow * s.cfg.rowBytes + s.serIdx) s }) := by
  unfold serReadByte at h
  split at h
  · injection h with h; exact .inl ⟨‹_›, h.symm⟩
  · obtain ⟨h1, h2⟩ := atByte_eq_next h
    rw [readByte_eq] at h2
    exact .inr ⟨by simp_all, h1, h2⟩

/-- A serializer byte read changes `ser_buf`, `ser_idx` and the free-byte counter, and nothing else. -/
theorem serReadByte_frame {s t : State} (h : serReadByte s = .next t) :
    t = { s with serBuf := t.serBuf, serIdx := t.serIdx, draws := t.draws } := by
  rcases serReadByte_cases h with ⟨-, rfl⟩ | ⟨-, -, rfl⟩ <;> rfl

/-- Everything a serializer step can do (R165, R166). -/
theorem serialStep_cases {s t : State} (h : serialStep s = .next t) :
    t = s ∨ (s.serBusy = true ∧ s.serIdx < s.cfg.rowBytes ∧ serReadByte s = .next t) ∨
    (s.serBusy = true ∧ s.serIdx = s.cfg.rowBytes ∧ s.level = .line ∧ t = serFinish s) := by
  unfold serialStep at h
  split at h
  · split at h
    · exact .inr (.inl ⟨‹_›, ‹_›, h⟩)
    · split at h
      · rename_i hc; injection h with h; exact .inr (.inr ⟨‹_›, hc.1, hc.2, h.symm⟩)
      · injection h with h; exact .inl h.symm
  · injection h with h; exact .inl h.symm

/-- The TICK of a cycle (R140): none if the cycle has had its TICK or is not a line's first, else the next line starts. -/
theorem cycleTick_eq_next {s t : State} (h : cycleTick s = .next t) :
    (¬(s.lt = 0 ∧ s.tickStage ≠ .ticked) ∧ t = s) ∨
    (s.lt = 0 ∧ s.tickStage ≠ .ticked ∧ s.slc.toNat < s.cfg.lines ∧
      t = { startLine s.slc.toNat s with tickStage := .ticked }) := by
  unfold cycleTick at h
  split at h
  · rename_i hc
    obtain ⟨u, hu, h⟩ := andThen_eq_next h
    obtain ⟨hl, rfl⟩ := tick_eq_next hu
    injection h with h
    exact .inr ⟨hc.1, hc.2, hl, h.symm⟩
  · injection h with h; exact .inl ⟨‹_›, h.symm⟩

/-- The five parts of the end of a cycle (R140): its TICK, the serializer's deadlines, the draw unit's, its age, and the
line timer. -/
theorem clockCycle_eq_next {s t : State} (h : clockCycle s = .next t) :
    ∃ a b c, cycleTick s = .next a ∧ clockRead (driveOutputs a) = .next b ∧ clockDraw (clockFinish b) = .next c ∧
      t = advanceTimer (ageDraw c) := by
  obtain ⟨a, ha, h⟩ := andThen_eq_next h
  obtain ⟨b, hb, h⟩ := andThen_eq_next h
  obtain ⟨c, hc, h⟩ := andThen_eq_next h
  injection h with h
  exact ⟨a, b, c, ha, hb, hc, h.symm⟩

/-- The micro-ops at their upper bound are performed by draw steps (R356). -/
theorem dueDraws_steps {most n : Nat} {s t : State} (h : dueDraws most n s = .next t) :
    ∃ k ≤ n, drawSteps k s = .next t := by
  induction n generalizing s with
  | zero => exact ⟨0, Nat.le_refl 0, h⟩
  | succ n ih =>
    unfold dueDraws at h
    split at h
    · obtain ⟨u, hu, h⟩ := andThen_eq_next h
      obtain ⟨k, hk, h⟩ := ih h
      exact ⟨k + 1, Nat.succ_le_succ hk, by simp [drawSteps, hu, h]⟩
    · exact ⟨0, Nat.zero_le _, h⟩

/-- The draw unit's part of the end of a cycle: some number of draw steps (R356). -/
theorem clockDraw_steps {s t : State} (h : clockDraw s = .next t) : ∃ k ≤ s.ops.length, drawSteps k s = .next t := by
  unfold clockDraw at h
  split at h
  · exact ⟨0, Nat.zero_le _, h⟩
  · exact dueDraws_steps h

end Sys2Proof.Machine
end

