-- ==== Sys2Proof/Tests/Slice0.lean ====
section
/-! SUPPORT. Tests of the model, each expected value from the spec's vectors or worked from the rule it names, and a
witness for the hypotheses of every statement that has some. -/

namespace Sys2Proof.Tests

open Sys2Proof.Machine

/-! ## States to test on -/

/-- A small well-formed configuration: 16 by 4 pixels, rows shown twice, 11 lines of 60 cycles. -/
def demo : Cfg :=
  { Config.canonical with
    width := 16, height := 4, lineRepeat := 2, active := 8, postBlank := 1, vsync := 1, preBlank := 1
    lineCycles := 60, syncShort := 4, syncLong := 40, syncEq := 2, hStart := 6, bitCycles := 2 }

/-- The canonical block on a blank line, initialized, with the given bytes written. -/
def drawn (cells : List Host.Cell) : State := { State.reset with init := true, mem := { cells := cells } }

/-- The same on an active line of the field. -/
def drawnActive (cells : List Host.Cell) : State := { drawn cells with phase := .activePicture, slc := 1 }

/-- The small block, initialized, its first row written, and line 0 about to start, at a level and with turns to come. -/
def demoLine (level : Level) (turns : List Turn) : State :=
  { State.afterReset demo with
    level := level, turns := turns, tickStage := .noTick, init := true, mem := { cells := [(0, 0xA5), (1, 0x3C)] } }

/-- The small block as line 0 is emitted: its TICK done, no byte read yet. -/
def demoEmitting (blank : Bool) (turns : List Turn) : State :=
  { startLine 0 (demoLine .line turns) with serBlank := blank }

/-- The small block as its draw unit holds a CLEAR of which two writes are left. -/
def demoBusy (turns : List Turn) (bus : List HostAccess) : State :=
  { demoLine .line turns with
    busy := true, curCmd := some (.legal (.clear 0x5A)), ops := [.wr 6 0x5A, .wr 7 0x5A], hostBus := bus }

/-- What the outcome's next state holds, and `d` if there is none. -/
def holds {α : Type} (d : α) (f : State → α) (o : Out) : α :=
  match o with
  | .next s => f s
  | .fault _ => d
  | .refused _ => d

/-- The framebuffer the outcome leaves. -/
def cellsOf (o : Out) : List Host.Cell := holds [] (fun s => s.mem.cells) o

/-- The small block at the cycle level as line 0 is emitted, `lt` cycles after its TICK with byte `idx` to read next, the
draw unit holding a write of that byte whose only cycle is this one. -/
def demoRace (lt idx : Nat) (turns : List Turn) : State :=
  { startLine 0 (demoLine .cycle turns) with
    cfg := { demo with drawTiming := some { least := 2, slack := 0 } }
    lt := lt, tickStage := if lt = 0 then .ticked else .noTick, serIdx := idx, drawAge := 2
    busy := true, curCmd := some (.legal (.clear 0x5A)), ops := [.wr idx 0x5A] }

/-- The first lines of V-TICK-17's configuration: a field with equalizing lines. -/
def equalized : Cfg := { Config.canonical with postBlank := 3, eqBefore := 1, eqAfter := 1 }

/-- V-TICK-17's block, its line counter at `c`, the line before it blank. -/
def beforeEqualizing (c : BitVec 9) : State := { State.afterReset equalized with slc := c, turns := [.tick] }

/-- The outcome leaves `rdata = v` and `overlap = o`. -/
def readsBack (v : Byte) (o : Bool) (r : Out) : Bool := holds false (fun s => s.rdata == v && s.overlap == o) r

/-! ## Ill-formed commands are refused (R101) -/

theorem test_wf_refuses_pset : (Instr.pset 32768 0).wf = false := by decide
theorem test_wf_refuses_preset : (Instr.preset 0 (-32769)).wf = false := by decide
theorem test_wf_refuses_pflip : (Instr.pflip (-32769) 0).wf = false := by decide
theorem test_wf_refuses_line_start : (Instr.line 0 32768 0 0).wf = false := by decide
theorem test_wf_refuses_line_end : (Instr.line 0 0 (-32769) 0).wf = false := by decide
theorem test_wf_refuses_digit_index : (Instr.digit 256 0 0).wf = false := by decide
theorem test_wf_refuses_digit_place : (Instr.digit 0 0 32768).wf = false := by decide
theorem test_wf_refuses_pget : (Instr.pget 0 32768).wf = false := by decide
theorem test_wf_refuses_rdbyte : (Instr.rdbyte 65536).wf = false := by decide

/-! ## Words written out from the encoding table (R95, R103, and V-ENC of 95_test_vectors.md) -/

theorem test_decode_nop : decode [0b0000000000000000#16] = .command .nop := by decide
theorem test_decode_init : decode [0b0001000000000000#16] = .command .init := by decide
theorem test_decode_clear : decode [0b0010000010101010#16] = .command (.clear 0xAA) := by decide
theorem test_decode_pset : decode [0b0011000000000000#16, 0xFFFF, 0x0000] = .command (.pset (-1) 0) := by decide
theorem test_decode_preset :
    decode [0b0100000000000000#16, 0x000A, 0x8000] = .command (.preset 10 (-32768)) := by decide
theorem test_decode_pflip : decode [0b0101000000000000#16, 0x0057, 0x002F] = .command (.pflip 87 47) := by decide
theorem test_decode_line :
    decode [0b0110000000000000#16, 0x0001, 0x0002, 0x7FFF, 0xFFFE] = .command (.line 1 2 32767 (-2)) := by decide
theorem test_decode_digit : decode [0b0111000000000101#16, 0x0010, 0x0001] = .command (.digit 5 16 1) := by decide
theorem test_decode_pget : decode [0b1000000000000000#16, 0x0003, 0x0002] = .command (.pget 3 2) := by decide
theorem test_decode_rdbyte : decode [0b1001000000000000#16, 0xFFFF] = .command (.rdbyte 65535) := by decide
theorem test_decode_reserved_opcode : decode [0xF000#16] = .rejected .reservedOpcode := by decide
theorem test_decode_reserved_field : decode [0x0100#16] = .rejected .reservedField := by decide
theorem test_decode_stray_immediate : decode [0x3005#16, 1, 1] = .rejected .strayImmediate := by decide
theorem test_decode_wrong_length : decode [0x3000#16, 1] = .rejected .wrongLength := by decide
theorem test_table_word : decodeTableWord 48 0x0001_0010_7005 = some (.digit 5 16 1) := by decide
theorem test_table_word_short : decodeTableWord 16 0x3000 = some (.pset 0 0) := by decide

/-! ## The commands (95_test_vectors.md; bytes worked from the rules where no vector is named) -/

theorem test_nop : cellsOf (exec .nop (drawnActive [(3, 7)])) = [(3, 7)] := by decide
theorem test_init : holds false State.init (exec .init State.reset) = true := by decide
/-- R204 on the small buffer of 8 bytes. -/
theorem test_clear :
    cellsOf (exec (.clear 0x5A) (demoLine .line [])) = (List.range 8).map fun a => (a, 0x5A) := by decide
theorem test_clear_before_init : cellsOf (exec (.clear 0x5A) State.reset) = [] := by decide
/-- The example of R210, with V-OVL-1's active line. -/
theorem test_pset :
    cellsOf (exec (.pset 3 2) (drawnActive [(22, 0x00)])) = [(22, 0x10)] ∧
    readsBack 0 true (exec (.pset 3 2) (drawnActive [(22, 0x00)])) = true := by decide
/-- V-OVL-3: a clipped point writes nothing. -/
theorem test_pset_clipped : readsBack 0 false (exec (.pset 100 100) (drawnActive [])) = true := by decide
/-- The example of R213. -/
theorem test_preset : cellsOf (exec (.preset 10 0) (drawn [(0, 0xFF), (1, 0xFF)])) = [(0, 0xFF), (1, 0xDF)] := by
  decide
/-- V-PFLIP-1 and the first flip of V-PFLIP-2. -/
theorem test_pflip : cellsOf (exec (.pflip 87 47) (drawn [(527, 0x00)])) = [(527, 0x01)] := by decide
theorem test_pflip_other_bits : cellsOf (exec (.pflip 1 0) (drawn [(0, 0x5A)])) = [(0, 0x1A)] := by decide
/-- V-LINE-1. -/
theorem test_line :
    cellsOf (exec (.line 0 0 7 3) (drawn [(0, 0), (11, 0), (22, 0), (33, 0)])) =
      [(0, 0xC0), (11, 0x30), (22, 0x0C), (33, 0x03)] := by decide
/-- V-LINE-11, the points of a line whose error term is negative. -/
theorem test_line_points :
    bresenhamPoints 10 0 7 9 =
      [(10, 0), (10, 1), (9, 2), (9, 3), (9, 4), (8, 5), (8, 6), (8, 7), (7, 8), (7, 9)] := by decide
/-- V-DIGIT-1. -/
theorem test_digit :
    cellsOf (exec (.digit 5 16 1) (drawn [])) =
      [(13, 0xF8), (24, 0x80), (35, 0xF0), (46, 0x08), (57, 0x08), (68, 0x88), (79, 0x70)] := by decide
/-- V-DIGIT-3: the rows below the buffer are skipped. -/
theorem test_digit_bottom :
    cellsOf (exec (.digit 8 83 44) (drawn [])) = [(494, 0x70), (505, 0x88), (516, 0x88), (527, 0x70)] := by decide
/-- V-PGET-1, and V-PGET-3's active line. -/
theorem test_pget :
    readsBack 1 false (exec (.pget 3 2) (drawnActive [(22, 0x10)])) = true ∧
    readsBack 0 false (exec (.pget 4 2) (drawnActive [(22, 0x10)])) = true := by decide
theorem test_pget_out_of_range : readsBack 0 false (exec (.pget (-1) 2) { drawn [] with rdata := 9 }) = true := by
  decide
/-- V-RDBYTE-1. -/
theorem test_rdbyte : readsBack 0x5A false (exec (.rdbyte 527) (drawn [(527, 0x5A)])) = true := by decide
theorem test_rdbyte_out_of_range : readsBack 0 false (exec (.rdbyte 528) { drawn [] with rdata := 9 }) = true := by
  decide

/-! ## Steps -/

/-- V-HOST-1: the registers after reset. -/
theorem test_registers_after_reset :
    (List.range 8).map (fun a => regRead (BitVec.ofNat 3 a) State.reset) =
      [0x0003, 0x0000, 0x0105, 0x0000, 0x0000, 0x0000, 0x0000, 0x0000] := by decide
/-- V-OVL-1's STATUS word. -/
theorem test_status_word : statusWord { drawnActive [] with overlap := true } = 0x0212 := by decide
/-- The example of R125: line 244 starts, and line 245 is programmed with a long pulse. -/
theorem test_tick :
    holds false (fun s => s.phase == .blank && s.syncwCur == .short && s.syncwNext == .long && s.slc == 245 &&
      s.irqPend == 1) (step { State.reset with slc := 244, turns := [.tick] }) = true := by decide
/-- V-TICK-17: from `slc = 242` the next line is programmed with an equalizing pulse. -/
theorem test_tick_before_equalizing :
    holds false (fun s => s.syncwNext == .eq && statusWord s == 0x000B) (step (beforeEqualizing 242)) = true := by decide
/-- V-TICK-17: from `slc = 243` the equalizing line starts. -/
theorem test_tick_equalizing :
    holds false (fun s => s.phase == .equalizing && s.syncwCur == .eq && s.syncwNext == .long && statusWord s == 0x0004)
      (step { beforeEqualizing 243 with syncwNext := .eq }) = true := by decide
/-- P3's illegal NOP: its command error. -/
theorem test_illegal_command : holds false State.cmdErr (step (State.reset.withFetchWord 16 0x0100)) = true := by
  decide
/-- R262's example: the third word of `PSET 3, 2` accepts the command. -/
theorem test_host_accepts :
    holds false (fun s => s.busy && s.curCmd == some (.legal (.pset 3 2)) && s.asmIdx == 0)
      (step { State.reset.withFetchWord 48 0x0002_0003_3000 with turns := [.host] }) = true := by decide
/-- R166: the pad byte ends the record of a line whose bytes are read. -/
theorem test_serializer_finish :
    holds false (fun s => s.emitted == [{ line := 0, bytes := [0xA5, 0x3C, 0] }] && !s.serBusy)
      (step { demoEmitting false [.serial] with serIdx := 2, serBuf := [0xA5, 0x3C, 0] }) = true := by decide
/-- R142, R176: in the cycle of an active line's TICK both outputs are low. -/
theorem test_cycle :
    holds false (fun s => !s.syncN && !s.video && s.lt == 1 && s.serBusy) (step (demoLine .cycle [.cycle])) = true := by
  decide
/-- R332: INIT written and offered a draw step in the first cycle after reset comes after its TICK, and line 0 is dark. -/
theorem test_first_line_dark :
    holds false (fun s => s.serBusy && s.serBlank && s.init)
      (Host.Core.run Sys2Proof.core 5 { demoLine .cycle [.rst, .host, .draw, .cycle, .draw] with
        hostBus := [.write 5 0x1000] }) = true := by decide
/-- R304, R345: a clear after a read that saw the TICK of the cycle is made in the next cycle. -/
theorem test_clear_after_seen_tick :
    holds [] (fun s => s.readLog.map (·.data))
      (Host.Core.run Sys2Proof.core 7 { demoLine .cycle [.tick, .host, .host, .host, .cycle, .host, .host] with
        hostBus := [.read 1, .write 3 1, .read 3] }) = [1, 0] := by decide
/-- R177: a byte may be read in its TICK's cycle, before that cycle ends, and a write of that cycle seen or not. -/
theorem test_race_in_the_tick_cycle :
    holds false (fun s => s.serBuf == [0x5A, 0, 0] && s.lt == 0)
      (Host.Core.run Sys2Proof.core 2 (demoRace 0 0 [.draw, .serial])) = true ∧
    holds false (fun s => s.serBuf == [0xA5, 0, 0] && s.lt == 0)
      (Host.Core.run Sys2Proof.core 2 (demoRace 0 0 [.serial, .draw])) = true := by decide
/-- R177, R348: the same in the last cycle of byte 1's window, at offset 6 + 8 * 1 * 2 - 1, and at the end of that cycle the
byte that is due is read. -/
theorem test_race_in_the_last_cycle :
    holds false (fun s => s.serBuf == [0, 0x5A, 0] && s.lt == 21)
      (Host.Core.run Sys2Proof.core 2 (demoRace 21 1 [.draw, .serial])) = true ∧
    holds false (fun s => s.serBuf == [0, 0x3C, 0] && s.lt == 22 && !s.busy) (step (demoRace 21 1 [.cycle])) = true := by
  decide

/-! ## Witnesses: a concrete state and operands that meet the hypotheses of each statement, at the ends of its clauses -/

theorem witness_DecodeOfEncode :
    (Instr.clear 0xFF).wf = true ∧ (Instr.pset (-32768) 32767).wf = true ∧ (Instr.preset 32767 (-32768)).wf = true ∧
    (Instr.pflip 0 0).wf = true ∧ (Instr.line (-32768) 32767 32767 (-32768)).wf = true ∧
    (Instr.digit 255 32767 (-32768)).wf = true ∧ (Instr.pget (-1) 32767).wf = true ∧
    (Instr.rdbyte 65535).wf = true := by decide

theorem witness_EncodeOfDecode : decode [0x7005#16, 0x0010, 0x0001] = .command (.digit 5 16 1) := by decide

theorem witness_LegalHeadersAreTheCommands :
    ([1#16, 2#16] : List Word).length + 1 = cmdLen ((0x3000#16).extractLsb' 12 4).toNat ∧
    ([] : List Word).length + 1 = cmdLen ((0xA000#16).extractLsb' 12 4).toNat := by decide

theorem witness_commands_run_idle : State.reset.busy = false ∧ (drawn []).busy = false := by decide

theorem witness_ClearFillsTheFramebuffer :
    (drawn []).cfg.wf ∧ (drawn []).busy = false ∧ (drawn []).init = true ∧ State.reset.init = false := by decide

theorem witness_PixelCommandsChangeOneBit :
    (drawn []).busy = false ∧ (drawn []).init = true ∧ inRange (drawn []).cfg 0 0 = true ∧
    inRange (drawn []).cfg 87 47 = true ∧ inRange (drawn []).cfg 88 0 = false ∧
    inRange (drawn []).cfg 0 48 = false ∧ inRange (drawn []).cfg (-1) 0 = false ∧ State.reset.init = false := by
  decide

theorem witness_PixelAddressing :
    (0 : Int) ≤ 87 ∧ (87 : Int) ≤ (Config.canonical.width : Int) - 1 ∧ (0 : Int) ≤ 47 ∧
    (47 : Int) ≤ (Config.canonical.height : Int) - 1 ∧ byteAddr Config.canonical 87 47 = 527 := by decide

theorem witness_LineSetsItsPoints :
    (drawn []).busy = false ∧ (drawn []).init = true ∧ State.reset.init = false ∧
    (3, 1) ∈ bresenhamPoints 0 0 7 3 ∧ inRange (drawn []).cfg 3 1 = true := by decide

/-- The bytes of V-LINE-1's line when one of the four is written, and a value found of each kind. -/
theorem test_new_bytes :
    newBytes (drawn [(11, 0)]) (bresenhamPoints 0 0 7 3) = [0, 22, 33] ∧
    foundByte (drawn [(11, 0)]) (bresenhamPoints 0 0 7 3) 11 = 0 := by decide
theorem test_found_byte :
    foundByte (drawn [(11, 0)]) (bresenhamPoints 0 0 7 3) 33 = Config.freeByte ((drawn []).draws + 2) := rfl

theorem witness_BresenhamReachesItsEndpoint :
    (bresenhamPoints 0 0 1 2)[1]? = some (0, 1) ∧ (bresenhamPoints 0 0 1 2)[1 + 1]? = some (1, 2) := by decide

theorem witness_BresenhamDominantAxis :
    (bresenhamPoints 1 2 0 0)[2]? = some (0, 0) ∧ (0 - 1 : Int).natAbs ≤ (0 - 2 : Int).natAbs ∧
    (bresenhamPoints 0 0 7 3)[7]? = some (7, 3) ∧ (3 - 0 : Int).natAbs ≤ (7 - 0 : Int).natAbs ∧
    0 < (7 - 0 : Int).natAbs ∧ (bresenhamPoints 0 0 7 3)[1]? = some (1, (1 * 3 + 7 - 1 - 7 / 2) / 7) := by decide

theorem witness_DigitReplacesItsBytes :
    (drawn []).busy = false ∧ (drawn []).init = true ∧ 9 < 10 ∧ inRange (drawn []).cfg 87 47 = true ∧
    (47 : Int).toNat + 0 < (drawn []).cfg.height ∧ ¬(10 ≤ 9) := by decide

theorem witness_RdbyteReadsOneByte :
    (drawn []).busy = false ∧ 527 < (drawn []).cfg.fbBytes ∧ (drawn []).cfg.fbBytes ≤ 528 := by decide

theorem witness_PixelLawsByReadBack :
    (drawn [(0, 1)]).busy = false ∧ (drawn [(0, 1)]).init = true ∧ inRange (drawn [(0, 1)]).cfg 7 0 = true ∧
    (drawn [(0, 1)]).mem.lookup (byteAddr (drawn [(0, 1)]).cfg 7 0) = some 1 := by decide

theorem witness_DrawingBeforeInitDoesNothing : State.reset.busy = false ∧ State.reset.init = false := by decide

theorem witness_CommandIsItsDrawSteps : demo.wf ∧ (demoLine .line []).busy = false := by decide

/-- The invariant holds of a state with a command under way, not only after reset. -/
theorem witness_CommandWaitsForThePending : BlockInv (demoBusy [] []) :=
  ⟨by decide, by decide, by decide, by decide, by decide, by decide, by decide, by decide⟩

theorem witness_RdataIsNewWhenNotBusy :
    (demoLine .line []).cfg.wf ∧ 7 < (planOf (.legal (.clear 0)) (demoLine .line [])).length ∧
    inRange demo 15 3 = true ∧ inRange demo 16 3 = false ∧ 7 < demo.fbBytes ∧ ¬8 < demo.fbBytes := by decide

theorem witness_PlansStayInside : MicroOp.wr 7 0 ∈ planOf (.legal (.clear 0)) (demoLine .line []) := by decide

theorem witness_MicroOpCounts : State.reset.cfg.wf := by decide

theorem witness_OverlapExactlyOnActiveWrites :
    performOp (.wr 527 9) (drawnActive []) = .next (drawWrite 527 9 (drawnActive [])) ∧
    performOp (.rmw 22 4 .set) (drawnActive [(22, 0)]) = .next (rmwByte 22 4 .set (drawnActive [(22, 0)])) :=
  ⟨rfl, rfl⟩

theorem witness_FramebufferReadAfterWrite : (1 : Nat) ≠ 0 ∧ State.reset.mem.written 0 = false := by decide

theorem witness_StepRunsTheDecodedCommand :
    let s := State.reset.withFetchWord 48 0x0002_0003_3000
    s.cfg.wf ∧ s.level = .line ∧ s.busy = false ∧ s.turns = [.command] ∧ s.hostBus = [.write 5 2] ∧
    s.asmIdx.toNat + 1 = asmLength (asmStore 2 s) ∧
    decode ((asmStore 2 s).toList.take (asmLength (asmStore 2 s))) = .command (.pset 3 2) := by decide

theorem witness_LastWordIsAccepted :
    let s := { State.reset.withFetchWord 16 0x1000 with turns := [.host] }
    s.cfg.wf ∧ s.busy = false ∧ s.turns = .host :: [] ∧ s.hostBus = .write 5 0x1000 :: [] ∧
    s.asmIdx.toNat + 1 = asmLength (asmStore 0x1000 s) := by decide

theorem witness_WordsAreFramedByTheOpcode :
    let s := { State.reset with
      turns := List.replicate 5 .host
      hostBus := [.write 5 0x6000, .write 5 0, .write 5 0, .write 5 7, .write 5 3] }
    s.cfg.wf ∧ s.busy = false ∧ s.asmIdx = 0 ∧ ([0, 0, 7, 3] : List Word).length + 1 = cmdLen (opField 0x6000) ∧
    s.turns = List.replicate (([0, 0, 7, 3] : List Word).length + 1) .host ++ [] ∧
    s.hostBus = ((0x6000 : Word) :: [0, 0, 7, 3]).map (.write 5) ++ [] := by decide

theorem witness_IllegalCommandSetsCmdErr :
    let s := State.reset.withFetchWord 16 0xA000
    s.cfg.wf ∧ s.level = .line ∧ s.busy = false ∧ s.turns = .command :: [] ∧ s.hostBus = .write 5 0xA000 :: [] ∧
    s.asmIdx.toNat + 1 = asmLength (asmStore 0xA000 s) ∧ headerLegal ((asmStore 0xA000 s).getD 0 0) = false := by
  decide

theorem witness_CmdWriteWaitsWhileBusy :
    let s := demoBusy [.host] [.write 5 0]
    s.cfg.wf ∧ s.busy = true ∧ s.turns = .host :: [] ∧ s.hostBus = .write 5 0 :: [] := by decide

theorem witness_RegisterReadHasNoSideEffect :
    let s := demoBusy [.host] [.read 5]
    s.cfg.wf ∧ s.turns = .host :: [] ∧ s.hostBus = .read 5 :: [] := by decide

theorem witness_RegisterWords : State.reset.cfg.lines ≤ 512 ∧ 0 < State.reset.cfg.lines := by decide

theorem witness_RegisterWrites :
    State.reset.cfg.wf ∧ (demoBusy [.host] [.write 3 1]).hostBus = .write 3 1 :: [] ∧
    (demoBusy [.host] [.write 3 1]).tickStage ≠ .ticked ∧ (demoRace 0 0 []).tickStage = .ticked ∧
    (demoBusy [.host] [.write 4 2]).hostBus = .write 4 2 :: [] ∧
    (demoBusy [.host] [.write 7 0xFFFF]).hostBus = .write 7 0xFFFF :: [] ∧
    (7 : BitVec 3) ∈ ([0, 1, 2, 6, 7] : List (BitVec 3)) := by decide

theorem witness_HostTurnReachesNoTiming :
    ∃ t, (demoBusy [.host] [.write 4 2]).turns = .host :: [] ∧ step (demoBusy [.host] [.write 4 2]) = .next t :=
  ⟨_, rfl, step_turn (s := demoBusy [.host] [.write 4 2]) (by decide) rfl⟩

theorem witness_TickStartsTheNextLine :
    let s := { State.reset with slc := 261, turns := [.tick] }
    s.cfg.wf ∧ s.level = .line ∧ s.serBusy = false ∧ s.slc.toNat < s.cfg.lines ∧ s.turns = .tick :: [] ∧
    (240 : BitVec 9).toNat = s.cfg.active := by decide

theorem witness_TickWaitsOrFaults :
    let s := { State.reset with slc := 262, turns := [.tick] }
    s.cfg.wf ∧ s.level = .line ∧ s.turns = .tick :: [] ∧ s.serBusy = false ∧ s.cfg.lines ≤ s.slc.toNat ∧
    (demoEmitting false [.tick]).serBusy = true := by decide

theorem witness_IllFormedConfigIsRefused :
    let c := { Config.canonical with lineRepeat := 4 }
    ¬(1 ≤ c.lineRepeat ∧ c.active = c.height * c.lineRepeat) := by decide

/-- V-TICK-17's regions, line by line where they meet. -/
theorem witness_PhaseRegions :
    equalized.wf ∧ 239 < equalized.active ∧ equalized.active ≤ 240 ∧
    242 < equalized.active + equalized.postBlank ∧ equalized.active + equalized.postBlank ≤ 243 ∧
    [239, 240, 242, 243, 244, 246, 247, 248, 261].map (phaseOf equalized) =
      [.activePicture, .blank, .blank, .equalizing, .verticalSync, .verticalSync, .equalizing, .blank, .blank] := by
  decide

theorem witness_RowsRepeatKTimes :
    Config.canonical.wf ∧ 239 < Config.canonical.active ∧ 47 < Config.canonical.height ∧
    rowOf Config.canonical 239 = 47 ∧ rowOf Config.canonical 234 = 46 := by decide

theorem witness_LineRecordIsItsRow :
    BlockInv (demoEmitting false [.serial, .serial, .serial]) ∧
    (let s := demoEmitting false [.serial, .serial, .serial];
      s.level = .line ∧ s.serBusy = true ∧ s.serIdx = 0 ∧ ([0xA5, 0x3C] : List Byte).length = s.cfg.rowBytes ∧
      (∀ k < s.cfg.rowBytes, s.mem.lookup (s.serRow * s.cfg.rowBytes + k) = ([0xA5, 0x3C] : List Byte)[k]?) ∧
      s.turns = List.replicate (s.cfg.rowBytes + 1) .serial ++ []) :=
  ⟨⟨by decide, by decide, by decide, by decide, by decide, by decide, by decide, by decide⟩, by decide⟩

theorem witness_LineRecordIsItsRow_dark :
    BlockInv (demoEmitting true [.serial, .serial, .serial]) ∧
    (demoEmitting true [.serial, .serial, .serial]).serBlank = true ∧
    ([0, 0] : List Byte) = List.replicate (demoEmitting true []).cfg.rowBytes 0 :=
  ⟨⟨by decide, by decide, by decide, by decide, by decide, by decide, by decide, by decide⟩, by decide, by decide⟩

theorem witness_SyncFollowsTheClockAlone :
    demo.wf ∧ Turn.rst ∉ [Turn.tick, .host, .cycle, .host, .serial, .draw, .cycle] ∧
    [Turn.tick, .host, .cycle, .host, .serial, .draw, .cycle].count .cycle = 2 := by decide

/-- Offset 7 of the line: the second cycle of its first pixel, its TICK early in its cycle and a read in that cycle. -/
theorem witness_VideoShowsTheRow :
    BlockInv (demoLine .cycle (.tick :: .serial :: List.replicate 8 .cycle)) ∧
    (let s := demoLine .cycle (.tick :: .serial :: List.replicate 8 .cycle);
      s.level = .cycle ∧ s.lt = 0 ∧ s.tickStage ≠ .ticked ∧ s.slc.toNat < s.cfg.active ∧ s.busy = false ∧
      ([0xA5, 0x3C] : List Byte).length = s.cfg.rowBytes ∧ s.init = true ∧
      (∀ k < s.cfg.rowBytes,
        s.mem.lookup (s.slc.toNat / s.cfg.lineRepeat * s.cfg.rowBytes + k) = ([0xA5, 0x3C] : List Byte)[k]?) ∧
      (∀ t ∈ s.turns, t = .cycle ∨ t = .serial ∨ t = .tick) ∧ s.turns.count .cycle = 7 + 1 ∧ 7 < s.cfg.lineCycles ∧
      s.cfg.lineEnd ≤ 53 + 1 ∧ 53 < s.cfg.lineCycles) :=
  ⟨⟨by decide, by decide, by decide, by decide, by decide, by decide, by decide, by decide⟩, by decide⟩

/-- A line whose TICK sees `init = 0`. -/
theorem witness_VideoShowsTheRow_dark :
    (let s := { demoLine .cycle [.cycle, .cycle] with init := false };
      BlockInv s ∧ s.init = false ∧ ([0, 0] : List Byte) = List.replicate s.cfg.rowBytes 0) :=
  ⟨⟨by decide, by decide, by decide, by decide, by decide, by decide, by decide, by decide⟩, by decide, by decide⟩

/-- The TICK's own cycle and the last cycle of byte 1's window, with the cycle of the write fixed. -/
theorem witness_ReadAndWriteOrderIsFree :
    (let s := demoRace 0 0 [.draw, .serial];
      BlockInv s ∧ s.level = .cycle ∧ s.serBusy = true ∧ s.serBlank = false ∧ s.serIdx < s.cfg.rowBytes ∧
      s.busy = true ∧ drawEnabled s = true ∧ s.ops = .wr 0 0x5A :: [] ∧ s.lt = 0 ∧
      0 = s.serRow * s.cfg.rowBytes + s.serIdx ∧ s.mem.lookup 0 = some 0xA5) ∧
    (let s := demoRace 21 1 [.serial, .draw];
      BlockInv s ∧ s.serIdx < s.cfg.rowBytes ∧ drawEnabled s = true ∧ s.ops = .wr 1 0x5A :: [] ∧
      s.lt + 1 = s.cfg.hStart + 8 * s.serIdx * s.cfg.bitCycles ∧
      1 = s.serRow * s.cfg.rowBytes + s.serIdx ∧ s.mem.lookup 1 = some 0x3C) :=
  ⟨⟨⟨by decide, by decide, by decide, by decide, by decide, by decide, by decide, by decide⟩, by decide⟩,
    ⟨by decide, by decide, by decide, by decide, by decide, by decide, by decide, by decide⟩, by decide⟩

/-- The same with a pixel flip, in both orders of turns. -/
theorem witness_ReadAndWriteOrderIsFree_rmw :
    (let s := { demoRace 0 0 [.serial, .draw] with ops := [.rmw 0 3 .flip] };
      BlockInv s ∧ s.turns = .serial :: .draw :: [] ∧ s.ops = .rmw 0 3 .flip :: [] ∧ s.mem.lookup 0 = some 0xA5 ∧
      (MicroOp.rmw 0 3 .flip, pixelByte .flip 3 0xA5) ∈
        [(MicroOp.wr 0 0, 0), (.rmw 0 3 .flip, pixelByte .flip 3 0xA5)] ∧
      (demoRace 0 0 [.draw, .serial]).turns = .draw :: .serial :: []) :=
  ⟨⟨by decide, by decide, by decide, by decide, by decide, by decide, by decide, by decide⟩, by decide⟩

theorem witness_VideoIsIdleOffTheLine :
    ∃ t, (demoLine .cycle [.cycle]).cfg.wf ∧ (demoLine .cycle [.cycle]).lt < demo.hStart ∧
      step (demoLine .cycle [.cycle]) = .next t :=
  ⟨_, by decide, by decide, rfl⟩

theorem witness_EventWinsOverClear :
    let s := { demoLine .cycle [.host, .cycle] with hostBus := [.write 3 3] }
    BlockInv s ∧ s.level = .cycle ∧ s.lt = 0 ∧ s.tickStage ≠ .ticked ∧ s.hostBus = .write 3 3 :: [] ∧
    s.turns = [.host] ++ .cycle :: [] :=
  ⟨⟨by decide, by decide, by decide, by decide, by decide, by decide, by decide, by decide⟩, by decide⟩

/-- The same with the TICK first, as the first blank line is about to start, so that both events are set. -/
theorem witness_EventWinsOverClear_vblank :
    let s := { demoLine .cycle [.tick, .host, .cycle] with
      hostBus := [.write 3 3], slc := 8, phase := .activePicture }
    BlockInv s ∧ s.tickStage ≠ .ticked ∧ s.turns = [.tick, .host] ++ .cycle :: [] ∧ s.slc.toNat = s.cfg.active :=
  ⟨⟨by decide, by decide, by decide, by decide, by decide, by decide, by decide, by decide⟩, by decide⟩

/-- The last offset of line 0's record, with INIT written at once. -/
theorem witness_FirstLineAfterResetIsDark :
    let ts := [.host, .draw, .tick, .draw] ++ List.replicate 54 Turn.cycle
    let s := { demoLine .cycle (.rst :: ts) with hostBus := [.write 5 0x1000] }
    s.cfg.wf ∧ s.level = .cycle ∧ s.turns = .rst :: ts ∧ .rst ∉ ts ∧ ts.count .cycle = 53 + 1 ∧
    53 < s.cfg.lineCycles ∧ s.cfg.lineEnd ≤ 53 + 1 := by decide

theorem witness_CycleLevelIsALineLevelRun :
    ∃ t, (let s := { demoLine .cycle [.tick, .host, .serial] with hostBus := [.read 1] };
      BlockInv s ∧ s.level = .cycle ∧ Host.Core.run Sys2Proof.core 3 s = .next t) :=
  ⟨_, ⟨by decide, by decide, by decide, by decide, by decide, by decide, by decide, by decide⟩, by decide, rfl⟩

theorem witness_ResetValues : 0 < Config.canonical.active := by decide

theorem witness_HeldResetResetsEverything :
    (demoBusy [.rst] []).cfg.wf ∧ (demoBusy [.rst] []).turns = .rst :: [] := by decide

theorem witness_ResetMeetsTheInvariant : Config.canonical.wf ∧ demo.wf := by decide

theorem witness_StepKeepsTheInvariant : ∃ t, BlockInv (demoBusy [.draw] []) ∧ step (demoBusy [.draw] []) = .next t :=
  ⟨_, ⟨by decide, by decide, by decide, by decide, by decide, by decide, by decide, by decide⟩, rfl⟩

theorem witness_TheBlockNeverStops : BlockInv (demoBusy [.draw] []) :=
  ⟨by decide, by decide, by decide, by decide, by decide, by decide, by decide, by decide⟩

theorem witness_StepKeepsTheFramebufferCanonical :
    ∃ t, (demoBusy [.draw] []).mem.wf ∧ step (demoBusy [.draw] []) = .next t :=
  ⟨_, by decide, rfl⟩

theorem witness_OnlyResetClearsTheFlags :
    ∃ t, (let s := { demoBusy [.draw] [] with cmdErr := true, overlap := true };
      step s = .next t ∧ (nextTurn s).1 ≠ .rst ∧ s.init = true ∧ s.cmdErr = true ∧ s.overlap = true) :=
  ⟨_, rfl, by decide, by decide, by decide, by decide⟩

/-- On a blank line any command keeps the partition; on an active line a command that writes nothing does: a pending
RDBYTE, and a whole PGET, NOP, INIT, and a PSET that is clipped or gated. -/
theorem witness_PartitionKeepsOverlapClear :
    ∃ t u, (let s := demoBusy [.draw] [];
      s.overlap = false ∧ partitionKept s ∧ step s = .next t) ∧
      (let s := { drawnActive [(0, 7)] with turns := [.draw], busy := true, ops := [.rdb 0] };
        onActiveLine s ∧ s.overlap = false ∧ partitionKept s ∧ step s = .next u) :=
  ⟨_, _, ⟨by decide, by decide, rfl⟩, by decide, by decide, by decide, rfl⟩

theorem witness_PartitionKeepsOverlapClear_command :
    (∀ w ∈ [(48, 0x0002_0003_8000), (16, 0x0000), (16, 0x1000), (48, 0x0064_0064_3000)],
      partitionKept ((drawnActive []).withFetchWord w.1 w.2)) ∧
    partitionKept ({ drawnActive [] with init := false }.withFetchWord 48 0x0002_0003_3000) ∧
    ¬partitionKept ((drawnActive []).withFetchWord 48 0x0002_0003_3000) ∧
    onActiveLine ((drawnActive []).withFetchWord 48 0x0002_0003_8000) := by decide

end Sys2Proof.Tests
end

section
/-! PROOFS. The scope of the model (R7, R295): a configuration that breaks R7 has no machine. -/

namespace Sys2Proof

/-- R7 item 8, which `glyphsOk` computes as a test, said of each byte of each glyph. -/
theorem Cfg.glyphsOk_iff (c : Cfg) :
    c.glyphsOk = true ↔ ∀ g ∈ c.glyphRom.toList, ∀ b ∈ g.toList, b.getLsbD 0 = false := by
  simp only [Cfg.glyphsOk, List.all_eq_true, Bool.not_eq_true']

end Sys2Proof

namespace Sys2Proof.Machine

/-- Settles O41: a configuration that `step` accepts has every item of R7, so one that breaks an item is refused
(`step_refused`). -/
theorem illFormedConfigIsRefused : Obligations.IllFormedConfigIsRefused := by
  intro s broken
  refine step_refused fun hwf => broken ?_
  obtain ⟨⟨size, bytes, rep, hactive, hvsync, hblank, hcounter⟩, pulses, deadline, glyphs⟩ := hwf
  exact ⟨size, bytes, rep, ⟨hactive, hvsync, hblank⟩, hcounter, pulses, deadline, s.cfg.glyphsOk_iff.mp glyphs⟩

end Sys2Proof.Machine
end

section
/-! PROOFS. Every plan is a nonempty list of micro-ops inside the framebuffer (R60, R61, R190). -/

namespace Sys2Proof.Machine

theorem inRange_iff {cfg : Cfg} {x y : Int} :
    inRange cfg x y = true ↔ (0 ≤ x ∧ x ≤ (cfg.width : Int) - 1) ∧ 0 ≤ y ∧ y ≤ (cfg.height : Int) - 1 :=
  decide_eq_true_iff

/-- The byte in column `col` of row `row` exists (R6, R60). -/
theorem rowByte_lt {cfg : Cfg} {row col : Nat} (hrow : row < cfg.height) (hcol : col < cfg.rowBytes) :
    row * cfg.rowBytes + col < cfg.fbBytes :=
  calc row * cfg.rowBytes + col
    _ < row * cfg.rowBytes + cfg.rowBytes := Nat.add_lt_add_left hcol _
    _ = (row + 1) * cfg.rowBytes := (Nat.succ_mul ..).symm
    _ ≤ cfg.height * cfg.rowBytes := Nat.mul_le_mul_right _ hrow
    _ = cfg.fbBytes := Nat.mul_comm ..

/-- The byte column of a pixel of the buffer (R61). -/
theorem byteColumn_lt {cfg : Cfg} {x y : Int} (h : inRange cfg x y = true) : x.toNat / 8 < cfg.rowBytes := by
  have ⟨hx, _⟩ := inRange_iff.1 h
  unfold Cfg.rowBytes
  omega

theorem byteAddr_lt {cfg : Cfg} {x y : Int} (h : inRange cfg x y = true) : byteAddr cfg x y < cfg.fbBytes := by
  have ⟨_, hy⟩ := inRange_iff.1 h
  exact rowByte_lt (by omega) (byteColumn_lt h)

theorem bitPos_lt (x : Int) : bitPos x < 8 := by unfold bitPos; omega

theorem pixOp_inside {cfg : Cfg} {x y : Int} (h : inRange cfg x y = true) (kind : PixelKind) :
    opInside cfg (pixOp cfg kind x y) = true := by
  simp [pixOp, opInside, byteAddr_lt h, bitPos_lt]

/-- A gated or clipped plan stays inside the framebuffer when the plan it guards does. -/
theorem guardedPlan_inside {cfg : Cfg} {p : Prop} [Decidable p] {plan : List MicroOp} {other : MicroOp}
    (hplan : p → ∀ op ∈ plan, opInside cfg op = true) (hother : opInside cfg other = true) :
    ∀ op ∈ (if p then plan else [other]), opInside cfg op = true := by
  split
  · exact hplan ‹_›
  · simpa using hother

theorem planClear_inside (p : Byte) (s : State) : ∀ op ∈ planClear p s, opInside s.cfg op = true :=
  guardedPlan_inside (fun _ => by simp [opInside]) rfl

theorem planPixel_inside (kind : PixelKind) (x y : Int) (s : State) :
    ∀ op ∈ planPixel kind x y s, opInside s.cfg op = true := by
  refine guardedPlan_inside (fun h => ?_) rfl
  have ⟨_, hin⟩ := Bool.and_eq_true_iff.1 h
  simpa using pixOp_inside hin kind

theorem planPget_inside (x y : Int) (s : State) : ∀ op ∈ planPget x y s, opInside s.cfg op = true :=
  guardedPlan_inside (fun h => by simp [opInside, byteAddr_lt h, bitPos_lt]) rfl

theorem planRdbyte_inside (i : Nat) (s : State) : ∀ op ∈ planRdbyte i s, opInside s.cfg op = true :=
  guardedPlan_inside (fun h => by simpa [opInside] using h) rfl

theorem orSkip_inside {cfg : Cfg} {plan : List MicroOp} (h : ∀ op ∈ plan, opInside cfg op = true) :
    ∀ op ∈ orSkip plan, opInside cfg op = true := by
  unfold orSkip
  split
  · simp [opInside]
  · exact h

theorem planLine_inside (x0 y0 x1 y1 : Int) (s : State) :
    ∀ op ∈ planLine x0 y0 x1 y1 s, opInside s.cfg op = true := by
  refine guardedPlan_inside (fun _ => orSkip_inside fun op hop => ?_) rfl
  obtain ⟨p, hp, rfl⟩ := List.mem_map.1 hop
  exact pixOp_inside (List.mem_filter.1 hp).2 .set

/-- The rows of a glyph that are drawn lie in the buffer (R231 d). -/
theorem mem_digitRows {cfg : Cfg} {y : Int} {r : Nat} :
    r ∈ digitRows cfg y ↔ r < 7 ∧ y + (r : Int) ≤ (cfg.height : Int) - 1 := by
  simp [digitRows]

theorem planDigit_inside (g : Nat) (x y : Int) (s : State) : ∀ op ∈ planDigit g x y s, opInside s.cfg op = true := by
  refine guardedPlan_inside (fun h op hop => ?_) rfl
  have ⟨_, hin⟩ := Bool.and_eq_true_iff.1 h
  obtain ⟨r, hr, rfl⟩ := List.mem_map.1 hop
  have ⟨_, hy⟩ := inRange_iff.1 hin
  have ⟨_, hrow⟩ := mem_digitRows.1 hr
  simpa [opInside] using rowByte_lt (row := (y + (r : Int)).toNat) (by omega) (byteColumn_lt hin)

/-- Every micro-op that a command plans stays inside the framebuffer and inside its byte (R60, R66). -/
theorem planOf_inside (c : Command) (s : State) : ∀ op ∈ planOf c s, opInside s.cfg op = true := by
  cases c with
  | illegal h => simp [planOf, planIllegal, opInside]
  | legal i =>
    cases i with
    | nop => simp [planOf, planNop, opInside]
    | init => simp [planOf, planInit, opInside]
    | clear p => exact planClear_inside p s
    | pset x y => exact planPixel_inside .set x y s
    | preset x y => exact planPixel_inside .clear x y s
    | pflip x y => exact planPixel_inside .flip x y s
    | line x0 y0 x1 y1 => exact planLine_inside x0 y0 x1 y1 s
    | digit g x y => exact planDigit_inside g x y s
    | pget x y => exact planPget_inside x y s
    | rdbyte i => exact planRdbyte_inside i s

theorem guardedPlan_ne_nil {p : Prop} [Decidable p] {plan : List MicroOp} {other : MicroOp} (h : p → plan ≠ []) :
    (if p then plan else [other]) ≠ [] := by
  split
  · exact h ‹_›
  · simp

theorem orSkip_ne_nil (plan : List MicroOp) : orSkip plan ≠ [] := by
  unfold orSkip
  split <;> simp_all

/-- The framebuffer of a well-formed configuration has a byte (R7 item 1). -/
theorem fbBytes_pos {cfg : Cfg} (hwf : cfg.wf) : 0 < cfg.fbBytes := by
  obtain ⟨⟨⟨hw, _, hh, _⟩, _⟩, _⟩ := hwf
  exact Nat.mul_pos (by unfold Cfg.rowBytes; omega) hh

/-- A drawn glyph has its top row in the buffer (R230). -/
theorem planDigit_ne_nil (g : Nat) (x y : Int) (s : State) : planDigit g x y s ≠ [] := by
  refine guardedPlan_ne_nil fun h => ?_
  have ⟨_, hin⟩ := Bool.and_eq_true_iff.1 h
  have ⟨_, hy⟩ := inRange_iff.1 hin
  have htop : 0 ∈ digitRows s.cfg y := mem_digitRows.2 (by omega)
  exact List.ne_nil_of_mem (List.mem_map_of_mem htop)

/-- No plan is empty (R190). -/
theorem planOf_ne_nil {s : State} (hwf : s.cfg.wf) (c : Command) : planOf c s ≠ [] := by
  cases c with
  | illegal h => exact List.cons_ne_nil _ _
  | legal i =>
    cases i with
    | nop => exact List.cons_ne_nil _ _
    | init => exact List.cons_ne_nil _ _
    | clear p => exact guardedPlan_ne_nil fun _ => by simpa using (fbBytes_pos hwf).ne'
    | pset x y => exact guardedPlan_ne_nil fun _ => List.cons_ne_nil _ _
    | preset x y => exact guardedPlan_ne_nil fun _ => List.cons_ne_nil _ _
    | pflip x y => exact guardedPlan_ne_nil fun _ => List.cons_ne_nil _ _
    | line x0 y0 x1 y1 => exact guardedPlan_ne_nil fun _ => orSkip_ne_nil _
    | digit g x y => exact planDigit_ne_nil g x y s
    | pget x y => exact guardedPlan_ne_nil fun _ => List.cons_ne_nil _ _
    | rdbyte i => exact guardedPlan_ne_nil fun _ => List.cons_ne_nil _ _

end Sys2Proof.Machine
end

section
/-! PROOFS. What a turn is made of: a `.command` turn is the host's access and, when that completes a command, the
micro-ops it plans; the framebuffer and the sticky flags change through micro-ops and through reset alone. -/

namespace Sys2Proof.Machine

/-- An idle draw unit performs a whole command as the micro-ops it plans on accepting it (R190). -/
theorem execCommand_idle {s : State} (h : s.busy = false) (c : Command) :
    execCommand c s = runOps (planOf c s) (acceptCommand c s) := by
  cases c with
  | illegal w => exact runCommand_idle h _ _
  | legal i => cases i <;> exact runCommand_idle h _ _

/-- Taking a word leaves the draw unit alone (R262). -/
theorem takeWord_busy (w : Word) (s : State) : (takeWord w s).1.busy = s.busy := by
  by_cases hlast : s.asmIdx.toNat + 1 = asmLength (asmStore w s)
  · rw [takeWord_last hlast]
  · rw [takeWord_more hlast]

/-- A CMD write takes its word and accepts the command that the word completes, if it completes one (R262). -/
theorem writeCmd_eq (w : Word) (s : State) :
    writeCmd w s = match (takeWord w s).2 with
      | some c => acceptCommand c (takeWord w s).1
      | none => (takeWord w s).1 := by
  unfold writeCmd
  split <;> rename_i h <;> rw [h]

/-- A `.command` turn is a host turn, or at the line level a host turn and then every micro-op that the draw unit holds
(log entry 1). -/
theorem commandTurn_cases {s t : State} (h : commandTurn s = .next t) :
    t = hostStep s ∨ (s.level = .line ∧ runOps (hostStep s).ops (hostStep s) = .next t) := by
  unfold commandTurn at h
  split at h
  · rename_i a d rest hbus
    split at h
    · rename_i hcmd
      obtain ⟨rfl, hidle, hline⟩ := hcmd
      have hbusy := takeWord_busy d { s with hostBus := rest }
      rw [hostStep_cmd hbus hidle, writeCmd_eq]
      split at h <;> rename_i u _ htake <;> rw [htake] at hbusy ⊢
      · rw [execCommand_idle (hbusy.trans hidle)] at h
        exact .inr ⟨hline, h⟩
      · injection h with h
        exact .inl h.symm
    · injection h with h
      exact .inl h.symm
  · injection h with h
    exact .inl h.symm

/-- The framebuffer and the flags that only reset clears are the same in both states. -/
def SameDrawn (s t : State) : Prop :=
  t.mem = s.mem ∧ t.init = s.init ∧ t.cmdErr = s.cmdErr ∧ t.overlap = s.overlap

namespace SameDrawn

theorem refl (s : State) : SameDrawn s s := ⟨rfl, rfl, rfl, rfl⟩

theorem trans {s t u : State} (h : SameDrawn s t) (h' : SameDrawn t u) : SameDrawn s u := by
  obtain ⟨hmem, hinit, herr, hover⟩ := h
  obtain ⟨hmem', hinit', herr', hover'⟩ := h'
  exact ⟨hmem'.trans hmem, hinit'.trans hinit, herr'.trans herr, hover'.trans hover⟩

end SameDrawn

theorem nextTurn_sameDrawn (s : State) : SameDrawn s (nextTurn s).2 := by
  rw [nextTurn_frame]; exact .refl s

theorem hostStep_sameDrawn (s : State) : SameDrawn s (hostStep s) := by
  rw [hostStep_frame]; exact .refl s

theorem startLine_sameDrawn (c : Nat) (s : State) : SameDrawn s (startLine c s) := by
  rw [startLine_eq]; exact .refl s

theorem tick_sameDrawn {s t : State} (h : tick s = .next t) : SameDrawn s t := by
  obtain ⟨-, rfl⟩ := tick_eq_next h
  exact startLine_sameDrawn _ s

theorem cycleTick_sameDrawn {s t : State} (h : cycleTick s = .next t) : SameDrawn s t := by
  rcases cycleTick_eq_next h with ⟨-, rfl⟩ | ⟨-, -, -, rfl⟩
  · exact .refl _
  · exact startLine_sameDrawn _ s

theorem serReadByte_sameDrawn {s t : State} (h : serReadByte s = .next t) : SameDrawn s t := by
  rw [serReadByte_frame h]; exact .refl s

theorem serialStep_sameDrawn {s t : State} (h : serialStep s = .next t) : SameDrawn s t := by
  rcases serialStep_cases h with rfl | ⟨-, -, hread⟩ | ⟨-, -, -, rfl⟩
  · exact .refl _
  · exact serReadByte_sameDrawn hread
  · exact .refl s

/-- The TICK of the controller's turn (R126, R140), if it has one. -/
theorem tickStep_cases {s t : State} (h : tickStep s = .next t) :
    (s.level = .line ∧ (t = s ∨ s.serBusy = false ∧ tick s = .next t)) ∨
    (s.level = .cycle ∧ cycleTick s = .next t) := by
  unfold tickStep at h
  split at h
  · split at h
    · exact .inl ⟨‹_›, .inr ⟨‹_›, h⟩⟩
    · injection h with h
      exact .inl ⟨‹_›, .inl h.symm⟩
  · exact .inr ⟨‹_›, h⟩

theorem tickStep_sameDrawn {s t : State} (h : tickStep s = .next t) : SameDrawn s t := by
  rcases tickStep_cases h with ⟨-, rfl | ⟨-, htick⟩⟩ | ⟨-, htick⟩
  · exact .refl _
  · exact tick_sameDrawn htick
  · exact cycleTick_sameDrawn htick

/-- The read at the end of a cycle (R177): the byte that is due, if one is. -/
theorem clockRead_cases {s t : State} (h : clockRead s = .next t) :
    (readDue s = false ∧ t = s) ∨ (readDue s = true ∧ serReadByte s = .next t) := by
  unfold clockRead at h
  split at h
  · exact .inr ⟨‹_›, h⟩
  · injection h with h
    exact .inl ⟨by simp_all, h.symm⟩

theorem clockRead_sameDrawn {s t : State} (h : clockRead s = .next t) : SameDrawn s t := by
  rcases clockRead_cases h with ⟨-, rfl⟩ | ⟨-, hread⟩
  · exact .refl _
  · exact serReadByte_sameDrawn hread

theorem clockFinish_sameDrawn (s : State) : SameDrawn s (clockFinish s) := by
  unfold clockFinish
  split <;> exact .refl s

theorem ageDraw_sameDrawn (s : State) : SameDrawn s (ageDraw s) := by
  unfold ageDraw
  split <;> exact .refl s

/-- The clock's turn: nothing at the line level, the end of a cycle at the cycle level (R14, R140). -/
theorem cycleStep_cases {s t : State} (h : cycleStep s = .next t) :
    (s.level = .line ∧ t = s) ∨ (s.level = .cycle ∧ clockCycle s = .next t) := by
  unfold cycleStep at h
  split at h
  · exact .inr ⟨‹_›, h⟩
  · injection h with h
    refine .inl ⟨?_, h.symm⟩
    cases hl : s.level <;> simp_all

/-- The draw unit's turn is a draw step, or nothing while it may not step (R190, R332, R356). -/
theorem drawTurn_cases {s t : State} (h : drawTurn s = .next t) :
    t = s ∨ (drawEnabled s = true ∧ drawStep s = .next t) := by
  unfold drawTurn at h
  split at h
  · exact .inr ⟨‹_›, h⟩
  · injection h with h
    exact .inl h.symm

/-- `P` speaks of the framebuffer and the sticky flags alone, and every micro-op keeps it. -/
structure KeptByDrawing (P : State → Prop) : Prop where
  congr : ∀ {s t : State}, SameDrawn s t → P s → P t
  op : ∀ {o : MicroOp} {s t : State}, performOp o s = .next t → P s → P t

namespace KeptByDrawing

variable {P : State → Prop}

theorem runOps (hP : KeptByDrawing P) {plan : List MicroOp} {s t : State}
    (h : Machine.runOps plan s = .next t) (hs : P s) : P t := by
  induction plan generalizing s with
  | nil => injection h with h; subst h; exact hP.congr (.refl s) hs
  | cons o rest ih =>
    obtain ⟨u, hu, ht⟩ := andThen_eq_next h
    exact ih ht (hP.op hu hs)

theorem drawStep (hP : KeptByDrawing P) {s t : State} (h : Machine.drawStep s = .next t) (hs : P s) : P t := by
  rcases drawStep_cases h with ⟨-, rfl⟩ | ⟨-, -, rfl⟩ | ⟨o, rest, u, -, -, hu, rfl⟩
  · exact hs
  · exact hP.congr (.refl s) hs
  · exact hP.congr (.refl u) (hP.op hu hs)

theorem drawSteps (hP : KeptByDrawing P) {n : Nat} {s t : State} (h : Machine.drawSteps n s = .next t)
    (hs : P s) : P t := by
  induction n generalizing s with
  | zero => injection h with h; subst h; exact hs
  | succ n ih =>
    obtain ⟨u, hu, ht⟩ := andThen_eq_next h
    exact ih ht (hP.drawStep hu hs)

theorem clockCycle (hP : KeptByDrawing P) {s t : State} (h : Machine.clockCycle s = .next t) (hs : P s) : P t := by
  obtain ⟨a, b, c, ha, hb, hc, rfl⟩ := clockCycle_eq_next h
  obtain ⟨n, -, hn⟩ := clockDraw_steps hc
  have hab : SameDrawn a b := clockRead_sameDrawn (s := driveOutputs a) hb
  have hsb : P (clockFinish b) :=
    hP.congr (((cycleTick_sameDrawn ha).trans hab).trans (clockFinish_sameDrawn b)) hs
  exact hP.congr (ageDraw_sameDrawn c) (hP.drawSteps hn hsb)

/-- Every turn but reset keeps what micro-ops keep of the framebuffer and the sticky flags. -/
theorem takeTurn (hP : KeptByDrawing P) {turn : Turn} {s t : State} (hrst : turn ≠ .rst)
    (h : Machine.takeTurn turn s = .next t) (hs : P s) : P t := by
  cases turn with
  | host => injection h with h; subst h; exact hP.congr (hostStep_sameDrawn s) hs
  | command =>
    have hhost := hP.congr (hostStep_sameDrawn s) hs
    rcases commandTurn_cases h with rfl | ⟨-, hrun⟩
    · exact hhost
    · exact hP.runOps hrun hhost
  | draw =>
    rcases drawTurn_cases h with rfl | ⟨-, hdraw⟩
    · exact hs
    · exact hP.drawStep hdraw hs
  | tick => exact hP.congr (tickStep_sameDrawn h) hs
  | serial => exact hP.congr (serialStep_sameDrawn h) hs
  | cycle =>
    rcases cycleStep_cases h with ⟨-, rfl⟩ | ⟨-, hclock⟩
    · exact hs
    · exact hP.clockCycle hclock hs
  | rst => exact absurd rfl hrst

/-- So does every step whose turn is not reset. -/
theorem step (hP : KeptByDrawing P) {s t : State} (h : Machine.step s = .next t) (hrst : (nextTurn s).1 ≠ .rst)
    (hs : P s) : P t :=
  hP.takeTurn hrst (step_eq_next h).2 (hP.congr (nextTurn_sameDrawn s) hs)

end KeptByDrawing

theorem keptByDrawing_mem_wf : KeptByDrawing fun s => s.mem.wf where
  congr := fun ⟨hmem, _⟩ hs => hmem ▸ hs
  op := performOp_mem_wf

/-- Settles O58: drawing keeps the canonical form (`Memory.wf_store`), and reset lists no byte at all. -/
theorem stepKeepsTheFramebufferCanonical : Obligations.StepKeepsTheFramebufferCanonical := by
  intro s t hmem h
  by_cases hrst : (nextTurn s).1 = .rst
  · have hturn := (step_eq_next h).2
    rw [hrst] at hturn
    injection hturn with hturn
    subst hturn
    exact reset_mem_wf
  · exact keptByDrawing_mem_wf.step h hrst hmem

/-- The flags set in `s` are set in `t`. -/
def FlagsStay (s t : State) : Prop :=
  (s.init = true → t.init = true) ∧ (s.cmdErr = true → t.cmdErr = true) ∧ (s.overlap = true → t.overlap = true)

/-- A micro-op sets flags and clears none (R190, R194). -/
theorem performOp_flagsStay {op : MicroOp} {s t : State} (h : performOp op s = .next t) : FlagsStay s t := by
  rcases performOp_cases h with ⟨a, k, kind, -, -, rfl⟩ | ⟨a, v, -, -, rfl⟩ | ⟨-, rfl⟩ | ⟨a, k, -, -, rfl⟩ |
    ⟨a, -, -, rfl⟩ | ⟨v, -, rfl⟩ | ⟨w, -, rfl⟩ | ⟨-, rfl⟩ <;>
    simp +contextual [FlagsStay, rmwByte_eq, drawWrite_eq, rdataFromBit_eq, rdataFromByte_eq]

theorem keptByDrawing_flagsStay (s : State) : KeptByDrawing (FlagsStay s) where
  congr := fun ⟨_, hinit, herr, hover⟩ hs => by rwa [FlagsStay, hinit, herr, hover]
  op := fun h ⟨hinit, herr, hover⟩ => by
    obtain ⟨hinit', herr', hover'⟩ := performOp_flagsStay h
    exact ⟨hinit' ∘ hinit, herr' ∘ herr, hover' ∘ hover⟩

/-- Settles O59: micro-ops only set the flags, and no turn but reset writes them otherwise. -/
theorem onlyResetClearsTheFlags : Obligations.OnlyResetClearsTheFlags := by
  intro s t h hrst
  exact (keptByDrawing_flagsStay s).step h hrst ⟨id, id, id⟩

end Sys2Proof.Machine
end

section
/-! PROOFS. The invariant (R47 to R49 and the ranges of the state): it holds after reset, and each operation that a turn
is made of keeps it. -/

namespace Sys2Proof.Machine

/-! ### The fields the invariant does not read -/

/-- What the invariant reads of a state: not the environment's lists, the observations, the interrupt registers, `rdata`,
the error flags, the outputs and the counters. -/
def invView (s : State) : State :=
  { s with
    turns := []
    choices := 0
    hostBus := []
    readLog := []
    emitted := []
    draws := 0
    drawAge := 0
    rdata := 0
    cmdErr := false
    overlap := false
    irqPend := 0
    irqEn := 0
    syncN := false
    video := false }

theorem blockInv_invView_iff (s : State) : BlockInv (invView s) ↔ BlockInv s :=
  ⟨fun h => ⟨h.cfgOk, h.timing, h.serial, h.draw, h.asm, h.mem, h.clock, h.start⟩,
   fun h => ⟨h.cfgOk, h.timing, h.serial, h.draw, h.asm, h.mem, h.clock, h.start⟩⟩

theorem BlockInv.congr {s t : State} (hs : BlockInv s) (h : invView s = invView t) : BlockInv t :=
  (blockInv_invView_iff t).1 (h ▸ (blockInv_invView_iff s).2 hs)

/-! ### Reset -/

/-- The configuration's bounds on a field (R7 items 4 and 5) and on a line (R7 items 6 and 7). -/
theorem wf_bounds {cfg : Cfg} (hwf : cfg.wf) :
    0 < cfg.lines ∧ cfg.lines ≤ 512 ∧ 0 < cfg.hStart ∧ 0 < cfg.bitCycles ∧ cfg.lineEnd ≤ cfg.lineCycles := by
  obtain ⟨⟨-, -, -, -, -, hblank, hcounter⟩, ⟨hbit, -, -, hshort, hstart, -⟩, hdeadline, -⟩ := hwf
  omega

theorem hStart_le_lineEnd (cfg : Cfg) : cfg.hStart ≤ cfg.lineEnd := Nat.le_add_right ..

/-- Before line 0 comes the field's last line (R41). -/
theorem previousLine_zero {cfg : Cfg} (h : 0 < cfg.lines) : previousLine cfg 0 = cfg.lines - 1 := by
  rw [previousLine, Nat.zero_add, Nat.mod_eq_of_lt (by omega)]

/-- Reset establishes the invariant at either level, whatever the block was doing (R46, R330). -/
theorem blockInv_resetBlock {s : State} (hwf : s.cfg.wf) : BlockInv (resetBlock s) := by
  obtain ⟨hlines, -, hstart, -, hdeadline⟩ := wf_bounds hwf
  have hend := hStart_le_lineEnd s.cfg
  have hprev := previousLine_zero hlines
  exact {
    cfgOk := hwf
    timing := ⟨hlines, congrArg (phaseOf s.cfg) hprev.symm, rfl, rfl⟩
    serial := ⟨List.length_replicate, by simp [resetBlock, State.afterReset, List.getLast?_replicate], nofun⟩
    draw := ⟨fun _ => rfl, nofun, nofun⟩
    asm := ⟨Nat.zero_le 4, fun h => absurd rfl h⟩
    mem := ⟨List.Pairwise.nil, nofun⟩
    clock := ⟨show 0 < s.cfg.lineCycles by omega, nofun, fun _ => nofun⟩
    start := fun _ _ => ⟨rfl, rfl, rfl⟩ }

/-- Settles O55: the reset state is what reset makes of itself. -/
theorem resetMeetsTheInvariant : Obligations.ResetMeetsTheInvariant :=
  fun cfg hwf => blockInv_resetBlock (s := State.afterReset cfg) hwf

/-! ### The draw unit -/

/-- R332 lets the draw unit step: at the cycle level, the first TICK after reset is past. -/
def MayDraw (s : State) : Prop := s.level = .cycle → s.tickStage ≠ .afterReset

/-- A write to a byte that exists keeps the framebuffer's part of the invariant. -/
theorem BlockInv.store {s : State} (hs : BlockInv s) {a : Nat} (ha : a < s.cfg.fbBytes) (v : Byte) :
    BlockInv { s with mem := s.mem.store a v } := by
  obtain ⟨hwf, hcells⟩ := hs.mem
  have hcells' : ∀ c ∈ (s.mem.store a v).cells, c.1 < s.cfg.fbBytes := by
    intro c hc
    rcases mem_storeCells hc with rfl | hc
    · exact ha
    · exact hcells c hc
  exact { hs with mem := ⟨Memory.wf_store hwf a v, hcells'⟩ }

/-- A micro-op keeps the invariant. -/
theorem BlockInv.performOp {s t : State} {op : MicroOp} (hs : BlockInv s) (hdraw : MayDraw s)
    (h : performOp op s = .next t) : BlockInv t := by
  rcases performOp_cases h with ⟨a, k, kind, -, ha, rfl⟩ | ⟨a, v, -, ha, rfl⟩ | ⟨-, rfl⟩ | ⟨a, k, -, -, rfl⟩ |
    ⟨a, -, -, rfl⟩ | ⟨v, -, rfl⟩ | ⟨w, -, rfl⟩ | ⟨-, rfl⟩
  · exact (hs.store ha _).congr (by rw [rmwByte_eq]; rfl)
  · exact (hs.store ha v).congr (by rw [drawWrite_eq]; rfl)
  · exact { hs with start := fun hl hstage => absurd hstage (hdraw hl) }
  · exact hs.congr (by rw [rdataFromBit_eq]; rfl)
  · exact hs.congr (by rw [rdataFromByte_eq]; rfl)
  · exact hs.congr rfl
  · exact hs.congr rfl
  · exact hs

/-- A micro-op leaves the level and the cycle's stage alone. -/
theorem performOp_mayDraw {s t : State} {op : MicroOp} (h : performOp op s = .next t) (hdraw : MayDraw s) :
    MayDraw t := by
  rw [performOp_frame h]; exact hdraw

/-- Dropping performed micro-ops keeps the invariant (R190). -/
theorem BlockInv.leaveOps {s : State} (hs : BlockInv s) {rest : List MicroOp} (hsub : ∀ op ∈ rest, op ∈ s.ops) :
    BlockInv (leaveOps rest s) := by
  obtain ⟨hidle, hbusy, hinside⟩ := hs.draw
  have hinside' : ∀ op ∈ rest, opInside s.cfg op = true := fun op hop => hinside op (hsub op hop)
  have hdraw : drawInv (Machine.leaveOps rest s) := by
    cases rest with
    | nil => exact ⟨fun _ => rfl, nofun, nofun⟩
    | cons op rest =>
      have hops : s.ops ≠ [] := List.ne_nil_of_mem (hsub op (List.mem_cons_self ..))
      have hb : s.busy = true := by cases hb : s.busy <;> simp_all
      exact ⟨nofun, fun _ => ⟨List.cons_ne_nil _ _, (hbusy hb).2⟩, hinside'⟩
  exact { hs with draw := hdraw }

theorem BlockInv.runOps {plan : List MicroOp} {s t : State} (hs : BlockInv s) (hdraw : MayDraw s)
    (h : runOps plan s = .next t) : BlockInv t := by
  induction plan generalizing s with
  | nil =>
    injection h with h
    subst h
    exact hs.leaveOps nofun
  | cons op rest ih =>
    obtain ⟨u, hu, ht⟩ := andThen_eq_next h
    exact ih (hs.performOp hdraw hu) (performOp_mayDraw hu hdraw) ht

theorem BlockInv.drawStep {s t : State} (hs : BlockInv s) (hdraw : MayDraw s) (h : drawStep s = .next t) :
    BlockInv t := by
  rcases drawStep_cases h with ⟨-, rfl⟩ | ⟨-, -, rfl⟩ | ⟨op, rest, u, -, hops, hu, rfl⟩
  · exact hs
  · exact hs.leaveOps nofun
  · have hkept : u.ops = s.ops := by rw [performOp_frame hu]
    refine (hs.performOp hdraw hu).leaveOps fun o ho => ?_
    rw [hkept, hops]
    exact List.mem_cons_of_mem _ ho

theorem drawStep_mayDraw {s t : State} (h : drawStep s = .next t) (hdraw : MayDraw s) : MayDraw t := by
  rw [drawStep_frame h]; exact hdraw

theorem BlockInv.drawSteps {n : Nat} {s t : State} (hs : BlockInv s) (hdraw : MayDraw s)
    (h : drawSteps n s = .next t) : BlockInv t := by
  induction n generalizing s with
  | zero => injection h with h; subst h; exact hs
  | succ n ih =>
    obtain ⟨u, hu, ht⟩ := andThen_eq_next h
    exact ih (hs.drawStep hdraw hu) (drawStep_mayDraw hu hdraw) ht

/-- A draw unit that may step may set `init` (R332). -/
theorem mayDraw_of_drawEnabled {s : State} (h : drawEnabled s = true) : MayDraw s := by
  intro hl
  simp only [drawEnabled, hl, Bool.and_eq_true, decide_eq_true_eq] at h
  exact h.1

theorem BlockInv.drawTurn {s t : State} (hs : BlockInv s) (h : drawTurn s = .next t) : BlockInv t := by
  rcases drawTurn_cases h with rfl | ⟨henabled, hstep⟩
  · exact hs
  · exact hs.drawStep (mayDraw_of_drawEnabled henabled) hstep

/-! ### The host -/

theorem cmdLen_bounds (op : Nat) : 1 ≤ cmdLen op ∧ cmdLen op ≤ 5 := by
  unfold cmdLen
  split <;> decide

/-- A command is one to five words long (R91). -/
theorem asmLength_bounds (buf : Vector Word 5) : 1 ≤ asmLength buf ∧ asmLength buf ≤ 5 := cmdLen_bounds _

/-- Every word but the first leaves the header, and with it the length, alone (R262). -/
theorem asmLength_asmStore {s : State} (h : s.asmIdx.toNat ≠ 0) (w : Word) :
    asmLength (asmStore w s) = asmLength s.asmBuf := by
  have hheader : (asmStore w s).getD 0 0 = s.asmBuf.getD 0 0 := by
    simp [asmStore, Vector.getD, Array.getD, h]
  rw [asmLength, hheader, asmLength]

/-- Taking a command's inner word keeps the assembler below the header's length (R33, R262). -/
theorem asmInv_storeWord {s : State} (hs : asmInv s) {w : Word}
    (hmore : s.asmIdx.toNat + 1 ≠ asmLength (asmStore w s)) :
    asmInv { s with asmBuf := asmStore w s, asmIdx := s.asmIdx + 1 } := by
  obtain ⟨hle, hlt⟩ := hs
  have hbounds := asmLength_bounds (asmStore w s)
  have hbelow : s.asmIdx.toNat + 1 < asmLength (asmStore w s) := by
    by_cases hzero : s.asmIdx.toNat = 0
    · omega
    · have hlen := asmLength_asmStore hzero w
      have := hlt hzero
      omega
  have hidx : (s.asmIdx + 1).toNat = s.asmIdx.toNat + 1 := by
    rw [BitVec.toNat_add]
    exact Nat.mod_eq_of_lt (by simp; omega)
  exact ⟨hidx ▸ by omega, fun _ => hidx ▸ hbelow⟩

theorem BlockInv.acceptCommand {s : State} (hs : BlockInv s) (c : Command) : BlockInv (acceptCommand c s) :=
  { hs with draw := ⟨nofun, fun _ => ⟨planOf_ne_nil hs.cfgOk c, rfl⟩, planOf_inside c s⟩ }

theorem BlockInv.writeCmd {s : State} (hs : BlockInv s) (w : Word) : BlockInv (writeCmd w s) := by
  by_cases hlast : s.asmIdx.toNat + 1 = asmLength (asmStore w s)
  · rw [writeCmd_last hlast]
    have htaken : BlockInv { s with asmBuf := asmStore w s, asmIdx := 0 } :=
      { hs with asm := ⟨Nat.zero_le 4, fun h => absurd rfl h⟩ }
    exact htaken.acceptCommand _
  · rw [writeCmd_more hlast]
    exact { hs with asm := asmInv_storeWord hs.asm hlast }

/-- A host with nothing to do has no step (R260). -/
theorem hostStep_nil {s : State} (h : s.hostBus = []) : hostStep s = s := by simp only [hostStep, h]

theorem BlockInv.hostStep {s : State} (hs : BlockInv s) : BlockInv (hostStep s) := by
  cases hbus : s.hostBus with
  | nil => rwa [hostStep_nil hbus]
  | cons acc rest =>
    cases acc with
    | read a => rw [hostStep_read hbus]; exact hs.congr rfl
    | write a d =>
      by_cases ha : a = cmdAddr
      · subst ha
        cases hb : s.busy with
        | true => rwa [hostStep_wait hbus hb]
        | false =>
          rw [hostStep_cmd hbus hb]
          have hbus' : BlockInv { s with hostBus := rest } := hs.congr rfl
          exact hbus'.writeCmd d
      · cases hn : nextCycles a s with
        | true => rwa [hostStep_late hbus ha hn]
        | false => rw [hostStep_other hbus ha hn, writeOther_frame]; exact hs.congr rfl

theorem hostStep_level (s : State) : (hostStep s).level = s.level := by rw [hostStep_frame]

theorem BlockInv.commandTurn {s t : State} (hs : BlockInv s) (h : commandTurn s = .next t) : BlockInv t := by
  rcases commandTurn_cases h with rfl | ⟨hline, hrun⟩
  · exact hs.hostStep
  · have hdraw : MayDraw (Machine.hostStep s) := fun hcycle => by simp [hostStep_level, hline] at hcycle
    exact hs.hostStep.runOps hdraw hrun

/-! ### The timing controller -/

/-- The line before the next line of the field is the present one (R41, R125). -/
theorem previousLine_next {cfg : Cfg} {c : Nat} (h : c < cfg.lines) : previousLine cfg ((c + 1) % cfg.lines) = c := by
  rcases Nat.lt_or_eq_of_le (Nat.succ_le_of_lt h) with hlt | heq
  · rw [previousLine, Nat.mod_eq_of_lt hlt, show c + 1 + cfg.lines - 1 = c + cfg.lines by omega, Nat.add_mod_right,
      Nat.mod_eq_of_lt h]
  · rw [show c + 1 = cfg.lines from heq, Nat.mod_self, previousLine_zero (by omega)]
    omega

/-- `slc` after TICK as a number: the field fits the 9-bit counter (R7 item 5, R21). -/
theorem startLine_slc {cfg : Cfg} (hwf : cfg.wf) (c : Nat) :
    (BitVec.ofNat 9 ((c + 1) % cfg.lines)).toNat = (c + 1) % cfg.lines := by
  obtain ⟨hpos, hcounter, -⟩ := wf_bounds hwf
  have := Nat.mod_lt (c + 1) hpos
  rw [BitVec.toNat_ofNat, Nat.mod_eq_of_lt (by omega)]

/-- After the TICK of line `slc` that line is in progress (R41, R125). -/
theorem currentLine_startLine {s : State} (hwf : s.cfg.wf) (hslc : s.slc.toNat < s.cfg.lines) :
    currentLine (startLine s.slc.toNat s) = s.slc.toNat := by
  rw [startLine_eq]
  show previousLine s.cfg (BitVec.ofNat 9 ((s.slc.toNat + 1) % s.cfg.lines)).toNat = _
  rw [startLine_slc hwf, previousLine_next hslc]

/-- TICK keeps R47. -/
theorem timingInv_startLine {s : State} (hs : BlockInv s) : timingInv (startLine s.slc.toNat s) := by
  obtain ⟨hslc, -, -, hnext⟩ := hs.timing
  have hline := currentLine_startLine hs.cfgOk hslc
  have hcounter := startLine_slc hs.cfgOk s.slc.toNat
  obtain ⟨hpos, -⟩ := wf_bounds hs.cfgOk
  unfold timingInv
  rw [hline, startLine_eq]
  dsimp only
  rw [hcounter]
  exact ⟨Nat.mod_lt _ hpos, rfl, hnext, rfl⟩

/-- TICK on an idle serializer keeps R48: it starts the serializer on an active line (R163). -/
theorem serialInv_startLine {s : State} (hs : BlockInv s) (hidle : s.serBusy = false) :
    serialInv (startLine s.slc.toNat s) := by
  obtain ⟨hslc, -⟩ := hs.timing
  obtain ⟨hlen, hlast, -⟩ := hs.serial
  have hline := currentLine_startLine hs.cfgOk hslc
  unfold serialInv
  rw [hline, startLine_eq]
  refine ⟨hlen, hlast, fun hbusy => ?_⟩
  have hactive : phaseOf s.cfg s.slc.toNat = .activePicture := by simpa [hidle] using hbusy
  simp [hactive]

/-- TICK at the line level, enabled when the serializer is idle (R126). -/
theorem BlockInv.lineTick {s t : State} (hs : BlockInv s) (hline : s.level = .line) (hidle : s.serBusy = false)
    (h : tick s = .next t) : BlockInv t := by
  obtain ⟨-, rfl⟩ := tick_eq_next h
  have htiming := timingInv_startLine hs
  have hserial := serialInv_startLine hs hidle
  obtain ⟨hlt, hticked, -⟩ := hs.clock
  rw [startLine_eq] at htiming hserial ⊢
  exact { hs with
    timing := htiming
    serial := hserial
    clock := ⟨hlt, hticked, fun hcycle => by simp [hline] at hcycle⟩
    start := fun hcycle => by simp [hline] at hcycle }

/-- The TICK of a cycle keeps the invariant: the serializer is idle before it (R140, R179). -/
theorem BlockInv.cycleTick {s t : State} (hs : BlockInv s) (hcycle : s.level = .cycle) (h : cycleTick s = .next t) :
    BlockInv t := by
  rcases cycleTick_eq_next h with ⟨-, rfl⟩ | ⟨hlt, hstage, -, rfl⟩
  · exact hs
  · obtain ⟨hlt', -, hdeadlines⟩ := hs.clock
    have hidle : s.serBusy = false := by
      cases hb : s.serBusy with
      | false => rfl
      | true => exact absurd ((hdeadlines hcycle hb).1 hlt) hstage
    have htiming := timingInv_startLine hs
    have hserial := serialInv_startLine hs hidle
    obtain ⟨-, -, hstart, -⟩ := wf_bounds hs.cfgOk
    have hend := hStart_le_lineEnd s.cfg
    rw [startLine_eq] at htiming hserial ⊢
    exact { hs with
      timing := htiming
      serial := hserial
      clock := ⟨hlt', fun _ => ⟨hcycle, hlt⟩, fun _ _ => ⟨fun _ => rfl,
        show s.lt < s.cfg.lineEnd by omega,
        fun _ => Nat.lt_of_lt_of_le (show s.lt < s.cfg.hStart by omega) (Nat.le_add_right ..)⟩⟩
      start := fun _ => nofun }

/-- Once its TICK is past, a cycle is not the first after reset any more (R332). -/
theorem cycleTick_mayDraw {s t : State} (hs : BlockInv s) (hcycle : s.level = .cycle) (h : cycleTick s = .next t) :
    MayDraw t := by
  intro _
  rcases cycleTick_eq_next h with ⟨hnone, rfl⟩ | ⟨-, -, -, rfl⟩
  · intro hstage
    obtain ⟨hlt, -⟩ := hs.start hcycle hstage
    exact hnone ⟨hlt, by rw [hstage]; decide⟩
  · nofun

theorem cycleTick_level {s t : State} (h : cycleTick s = .next t) : t.level = s.level := by
  rcases cycleTick_eq_next h with ⟨-, rfl⟩ | ⟨-, -, -, rfl⟩
  · rfl
  · rw [startLine_eq]

theorem BlockInv.tickStep {s t : State} (hs : BlockInv s) (h : tickStep s = .next t) : BlockInv t := by
  rcases tickStep_cases h with ⟨hline, rfl | ⟨hidle, htick⟩⟩ | ⟨hcycle, htick⟩
  · exact hs
  · exact hs.lineTick hline hidle htick
  · exact hs.cycleTick hcycle htick

/-! ### The serializer -/

/-- Writing below the last place of a list keeps its last element. -/
theorem getLast?_set_of_lt {l : List Byte} {i : Nat} (h : i + 1 < l.length) (b : Byte) :
    (l.set i b).getLast? = l.getLast? := by
  rw [List.getLast?_eq_getElem?, List.length_set, List.getElem?_set_ne (by omega), List.getLast?_eq_getElem?]

/-- The next byte of a line keeps the invariant: the pad byte stays 0, and the byte after it is due later (R165, R177). -/
theorem BlockInv.pushLineByte {s : State} (hs : BlockInv s) (hlt : s.serIdx < s.cfg.rowBytes) (b : Byte) :
    BlockInv (pushLineByte b s) := by
  obtain ⟨hlen, hpad, hline⟩ := hs.serial
  obtain ⟨hrange, hticked, hdeadlines⟩ := hs.clock
  have hlen' : (s.serBuf.set s.serIdx b).length = s.cfg.rowBytes + 1 := by rw [List.length_set, hlen]
  have hpad' : (s.serBuf.set s.serIdx b).getLast? = some 0 := by rw [getLast?_set_of_lt (by omega), hpad]
  refine { hs with serial := ⟨hlen', hpad', fun hbusy => ?_⟩, clock := ⟨hrange, hticked, fun hcycle hbusy => ?_⟩ }
  · obtain ⟨hactive, hsame, hrow, -⟩ := hline hbusy
    exact ⟨hactive, hsame, hrow, hlt⟩
  · obtain ⟨hstage, hend, hdue⟩ := hdeadlines hcycle hbusy
    refine ⟨hstage, hend, fun _ => ?_⟩
    have hlater : 8 * s.serIdx * s.cfg.bitCycles ≤ 8 * (s.serIdx + 1) * s.cfg.bitCycles :=
      Nat.mul_le_mul_right _ (by omega)
    exact Nat.lt_of_lt_of_le (hdue hlt) (Nat.add_le_add_left hlater _)

theorem BlockInv.serReadByte {s t : State} (hs : BlockInv s) (hlt : s.serIdx < s.cfg.rowBytes)
    (h : serReadByte s = .next t) : BlockInv t := by
  rcases serReadByte_cases h with ⟨-, rfl⟩ | ⟨-, -, rfl⟩
  · exact hs.pushLineByte hlt 0
  · exact (hs.pushLineByte hlt _).congr rfl

/-- The end of a line keeps the invariant: the serializer is idle, with a pad byte of 0 in its buffer (R166). -/
theorem BlockInv.serFinish {s : State} (hs : BlockInv s) : BlockInv (serFinish s) := by
  obtain ⟨hlen, -, -⟩ := hs.serial
  obtain ⟨hrange, hticked, -⟩ := hs.clock
  have hlen' : (s.serBuf.set s.cfg.rowBytes 0).length = s.cfg.rowBytes + 1 := by rw [List.length_set, hlen]
  have hpad : (s.serBuf.set s.cfg.rowBytes 0).getLast? = some 0 := by
    rw [List.getLast?_eq_getElem?, hlen', Nat.add_sub_cancel, List.getElem?_set_self (by omega)]
  exact { hs with serial := ⟨hlen', hpad, nofun⟩, clock := ⟨hrange, hticked, fun _ => nofun⟩ }

theorem BlockInv.serialStep {s t : State} (hs : BlockInv s) (h : serialStep s = .next t) : BlockInv t := by
  rcases serialStep_cases h with rfl | ⟨-, hlt, hread⟩ | ⟨-, -, -, rfl⟩
  · exact hs
  · exact hs.serReadByte hlt hread
  · exact hs.serFinish

/-! ### The end of a cycle -/

/-- No byte is left for a later cycle than its window allows (R177). -/
def NoReadDue (s : State) : Prop :=
  s.serBusy = true → s.serIdx < s.cfg.rowBytes → s.lt + 1 < s.cfg.hStart + 8 * s.serIdx * s.cfg.bitCycles

/-- Neither a byte nor the line's end is left for a later cycle (R177, R179). -/
def NothingDue (s : State) : Prop := NoReadDue s ∧ (s.serBusy = true → s.lt + 1 < s.cfg.lineEnd)

theorem readDue_iff {s : State} :
    readDue s = true ↔ s.serBusy = true ∧ s.serIdx < s.cfg.rowBytes ∧
      s.cfg.hStart + 8 * s.serIdx * s.cfg.bitCycles ≤ s.lt + 1 := by
  simp [readDue]

theorem noReadDue_of_readDue_false {s : State} (h : readDue s = false) : NoReadDue s := by
  intro hbusy hlt
  by_contra hlate
  have : readDue s = true := readDue_iff.2 ⟨hbusy, hlt, by omega⟩
  simp [h] at this

theorem BlockInv.clockRead {s t : State} (hs : BlockInv s) (h : clockRead s = .next t) : BlockInv t := by
  rcases clockRead_cases h with ⟨-, rfl⟩ | ⟨hdue, hread⟩
  · exact hs
  · obtain ⟨-, hlt, -⟩ := readDue_iff.1 hdue
    exact hs.serReadByte hlt hread

/-- One read is enough: the byte after the one that was due is due `8 * BIT_CYCLES` cycles later (R177). -/
theorem clockRead_noReadDue {s t : State} (hs : BlockInv s) (hcycle : s.level = .cycle)
    (h : clockRead s = .next t) : NoReadDue t := by
  rcases clockRead_cases h with ⟨hdue, rfl⟩ | ⟨hdue, hread⟩
  · exact noReadDue_of_readDue_false hdue
  · obtain ⟨hbusy, hlt, -⟩ := readDue_iff.1 hdue
    obtain ⟨-, -, hdeadlines⟩ := hs.clock
    obtain ⟨-, -, hwindow⟩ := hdeadlines hcycle hbusy
    have hbefore := hwindow hlt
    obtain ⟨-, -, -, hbit, -⟩ := wf_bounds hs.cfgOk
    have hnext : 8 * (s.serIdx + 1) * s.cfg.bitCycles = 8 * s.serIdx * s.cfg.bitCycles + 8 * s.cfg.bitCycles := by
      ring
    have hlater : s.lt + 1 < s.cfg.hStart + 8 * (s.serIdx + 1) * s.cfg.bitCycles := by omega
    rcases serReadByte_cases hread with ⟨-, rfl⟩ | ⟨-, -, rfl⟩
    · exact fun _ _ => hlater
    · exact fun _ _ => hlater

theorem clockRead_frame {s t : State} (h : clockRead s = .next t) :
    t = { s with serBuf := t.serBuf, serIdx := t.serIdx, draws := t.draws } := by
  rcases clockRead_cases h with ⟨-, rfl⟩ | ⟨-, hread⟩
  · rfl
  · exact serReadByte_frame hread

/-- The finish at the end of a cycle (R179): of a line that has sent its last bit. -/
theorem clockFinish_cases (s : State) :
    (clockFinish s = s ∧ (s.serBusy = true → ¬(s.serIdx = s.cfg.rowBytes ∧ s.lt + 1 = s.cfg.lineEnd))) ∨
    clockFinish s = serFinish s := by
  unfold clockFinish
  split
  · exact .inr rfl
  · exact .inl ⟨rfl, by simp_all⟩

theorem BlockInv.clockFinish {s : State} (hs : BlockInv s) : BlockInv (clockFinish s) := by
  rcases clockFinish_cases s with ⟨heq, -⟩ | heq <;> rw [heq]
  · exact hs
  · exact hs.serFinish

theorem clockFinish_mayDraw {s : State} (hdraw : MayDraw s) : MayDraw (clockFinish s) := by
  rcases clockFinish_cases s with ⟨heq, -⟩ | heq <;> rw [heq] <;> exact hdraw

/-- With every due byte read, the finish leaves nothing for a later cycle (R179). -/
theorem clockFinish_nothingDue {s : State} (hs : BlockInv s) (hcycle : s.level = .cycle) (hread : NoReadDue s) :
    NothingDue (clockFinish s) := by
  rcases clockFinish_cases s with ⟨heq, hnot⟩ | heq <;> rw [heq]
  · refine ⟨hread, fun hbusy => ?_⟩
    obtain ⟨-, -, hline⟩ := hs.serial
    obtain ⟨-, -, -, hidx⟩ := hline hbusy
    obtain ⟨-, -, hdeadlines⟩ := hs.clock
    obtain ⟨-, hend, -⟩ := hdeadlines hcycle hbusy
    rcases Nat.lt_or_eq_of_le hidx with hlt | hall
    · have hwindow : 8 * s.serIdx * s.cfg.bitCycles ≤ 8 * (s.cfg.rowBytes + 1) * s.cfg.bitCycles :=
        Nat.mul_le_mul_right _ (by omega)
      calc s.lt + 1
        _ < s.cfg.hStart + 8 * s.serIdx * s.cfg.bitCycles := hread hbusy hlt
        _ ≤ s.cfg.lineEnd := Nat.add_le_add_left hwindow _
    · have := hnot hbusy
      omega
  · exact ⟨nofun, nofun⟩

theorem BlockInv.clockDraw {s t : State} (hs : BlockInv s) (hdraw : MayDraw s) (h : clockDraw s = .next t) :
    BlockInv t := by
  obtain ⟨n, -, hsteps⟩ := clockDraw_steps h
  exact hs.drawSteps hdraw hsteps

/-- The draw unit leaves the serializer and the line timer alone. -/
theorem clockDraw_nothingDue {s t : State} (h : clockDraw s = .next t) (hdue : NothingDue s) :
    NothingDue t := by
  obtain ⟨n, -, hsteps⟩ := clockDraw_steps h
  rw [drawSteps_frame hsteps]
  exact hdue

theorem ageDraw_eq (s : State) : ageDraw s = { s with drawAge := (ageDraw s).drawAge } := by
  unfold ageDraw
  split <;> rfl

/-- The line timer moves on when nothing is due (R140): a busy serializer's line ends before the timer wraps (R7 item 7). -/
theorem BlockInv.advanceTimer {s : State} (hs : BlockInv s) (hdue : NothingDue s) : BlockInv (advanceTimer s) := by
  obtain ⟨hread, hfinish⟩ := hdue
  obtain ⟨hrange, -, -⟩ := hs.clock
  obtain ⟨-, -, -, -, hdeadline⟩ := wf_bounds hs.cfgOk
  have hclock : clockInv (Machine.advanceTimer s) := by
    refine ⟨Nat.mod_lt _ (by omega), nofun, fun _ hbusy => ?_⟩
    have hend := hfinish hbusy
    have hlt : (Machine.advanceTimer s).lt = s.lt + 1 := Nat.mod_eq_of_lt (by omega)
    rw [hlt]
    exact ⟨nofun, hend, hread hbusy⟩
  exact { hs with clock := hclock, start := fun _ => nofun }

/-- The end of a cycle keeps the invariant: its parts do, in order, and nothing that is due is left undone (R140, R177,
R179). -/
theorem BlockInv.clockCycle {s t : State} (hs : BlockInv s) (hcycle : s.level = .cycle)
    (h : clockCycle s = .next t) : BlockInv t := by
  obtain ⟨a, b, c, ha, hb, hc, rfl⟩ := clockCycle_eq_next h
  have hinvA : BlockInv (driveOutputs a) := (hs.cycleTick hcycle ha).congr rfl
  have hcycleA : (driveOutputs a).level = .cycle := (cycleTick_level ha).trans hcycle
  have hticked : MayDraw a := cycleTick_mayDraw hs hcycle ha
  have hinvB : BlockInv b := hinvA.clockRead hb
  have hcycleB : b.level = .cycle := by rw [clockRead_frame hb]; exact hcycleA
  have hdrawB : MayDraw b := by rw [clockRead_frame hb]; exact hticked
  have hdueB : NothingDue (Machine.clockFinish b) :=
    clockFinish_nothingDue hinvB hcycleB (clockRead_noReadDue hinvA hcycleA hb)
  have hinvC : BlockInv c := hinvB.clockFinish.clockDraw (clockFinish_mayDraw hdrawB) hc
  have hinv : BlockInv (ageDraw c) := by rw [ageDraw_eq]; exact hinvC.congr rfl
  have hdueC : NothingDue c := clockDraw_nothingDue hc hdueB
  have hdue : NothingDue (ageDraw c) := by rw [ageDraw_eq]; exact hdueC
  exact hinv.advanceTimer hdue

theorem BlockInv.cycleStep {s t : State} (hs : BlockInv s) (h : cycleStep s = .next t) : BlockInv t := by
  rcases cycleStep_cases h with ⟨-, rfl⟩ | ⟨hcycle, hclock⟩
  · exact hs
  · exact hs.clockCycle hcycle hclock

/-! ### The step -/

theorem BlockInv.takeTurn {turn : Turn} {s t : State} (hs : BlockInv s) (h : takeTurn turn s = .next t) :
    BlockInv t := by
  cases turn with
  | host => injection h with h; subst h; exact hs.hostStep
  | command => exact hs.commandTurn h
  | draw => exact hs.drawTurn h
  | tick => exact hs.tickStep h
  | serial => exact hs.serialStep h
  | cycle => exact hs.cycleStep h
  | rst => injection h with h; subst h; exact blockInv_resetBlock hs.cfgOk

/-- Settles O56: each agent's turn keeps the invariant, and reset establishes it. -/
theorem stepKeepsTheInvariant : Obligations.StepKeepsTheInvariant := by
  intro s t hs h
  obtain ⟨-, hturn⟩ := step_eq_next h
  have hnext : BlockInv (nextTurn s).2 := by rw [nextTurn_frame]; exact hs.congr rfl
  exact hnext.takeTurn hturn

end Sys2Proof.Machine
end

section
/-! PROOFS. The values after reset (R46), the words of the registers (R41, R42, R261) and what a host turn writes (R43 to
R45, R50, R264 to R266). -/

namespace Sys2Proof.Machine

/-! ### Reset -/

/-- A field with an active line starts with one (R121). -/
theorem phaseOf_zero {cfg : Cfg} (h : 0 < cfg.active) : phaseOf cfg 0 = .activePicture := if_pos h

/-- No event is pending after reset, so no interrupt is asserted (R46, R300). -/
theorem irq_afterReset (cfg : Cfg) : irq (State.afterReset cfg) = false := by
  show (0#2 &&& 0#2 != 0#2) = false
  decide

/-- Settles O53: line 0, whose width is next after reset, is an active line, and so short (R122). -/
theorem resetValues : Obligations.ResetValues := by
  intro cfg hactive
  have hshort : widthCode (phaseOf cfg 0) = .short := by rw [phaseOf_zero hactive]; rfl
  exact ⟨rfl, rfl, hshort, rfl, rfl, rfl, rfl, fun _ => rfl, rfl, rfl, rfl, rfl, rfl, rfl, rfl, rfl, rfl, rfl, rfl,
    irq_afterReset cfg⟩

/-! ### Register words -/

theorem statusWord_phase (s : State) : (statusWord s).extractLsb' 0 2 = phaseCode s.phase :=
  BitVec.extractLsb'_append_eq_right

theorem statusWord_width (s : State) : (statusWord s).extractLsb' 2 2 = widthBits s.syncwNext := by
  rw [statusWord, BitVec.extractLsb'_append_eq_of_le (by decide)]
  exact BitVec.extractLsb'_append_eq_right

/-- The single-bit fields of STATUS (R42). -/
theorem statusWord_flags (s : State) :
    (statusWord s).getLsbD 4 = s.init ∧ (statusWord s).getLsbD 5 = s.busy ∧
    (statusWord s).getLsbD 6 = decide (s.asmIdx ≠ 0) ∧ (statusWord s).getLsbD 7 = s.serBusy ∧
    (statusWord s).getLsbD 8 = s.cmdErr ∧ (statusWord s).getLsbD 9 = s.overlap := by
  simp only [statusWord, BitVec.getLsbD_append]
  simp [bne, Bool.beq_eq_decide_eq]

/-- The unused bits of STATUS read 0 (R42). -/
theorem statusWord_unused (s : State) : (statusWord s).extractLsb' 10 6 = 0 := by
  unfold statusWord
  iterate 8 rw [BitVec.extractLsb'_append_eq_of_le (by decide)]
  rfl

/-- CURLINE holds every line of a field that fits the counter (R7 item 5, R41). -/
theorem toNat_regRead_curline {s : State} (hpos : 0 < s.cfg.lines) (hle : s.cfg.lines ≤ 512) :
    (regRead 2 s).toNat = previousLine s.cfg s.slc.toNat := by
  have hlt : previousLine s.cfg s.slc.toNat < s.cfg.lines := Nat.mod_lt _ hpos
  show (BitVec.ofNat 16 (previousLine s.cfg s.slc.toNat)).toNat = _
  rw [BitVec.toNat_ofNat, Nat.mod_eq_of_lt (by omega)]

/-- Settles O35: STATUS by its fields, CURLINE by the field's size, and the other registers zero-extended. -/
theorem registerWords : Obligations.RegisterWords := by
  intro s
  obtain ⟨hinit, hbusy, hasm, hser, herr, hover⟩ := statusWord_flags s
  refine ⟨⟨?_, ?_, hinit, hbusy, hasm, hser, herr, hover, statusWord_unused s⟩,
    BitVec.toNat_setWidth_of_le (by decide), fun hle hpos => toNat_regRead_curline hpos hle,
    BitVec.toNat_setWidth_of_le (by decide), BitVec.toNat_setWidth_of_le (by decide), rfl,
    BitVec.toNat_setWidth_of_le (by decide), rfl⟩
  · exact (statusWord_phase s).trans (by cases s.phase <;> rfl)
  · exact (statusWord_width s).trans (by cases s.syncwNext <;> rfl)

/-! ### The host's turn -/

/-- A host turn is one access of the host. -/
theorem step_host {s : State} {ts : List Turn} (hwf : s.cfg.wf) (h : s.turns = .host :: ts) :
    step s = .next (hostStep { s with turns := ts }) :=
  step_turn hwf h

/-- Settles O38, by the frame of a host access. -/
theorem hostTurnReachesNoTiming : Obligations.HostTurnReachesNoTiming := by
  intro s t ts hturns h
  obtain ⟨hwf, -⟩ := step_eq_next h
  rw [step_host hwf hturns] at h
  injection h with h
  subst h
  rw [hostStep_frame]
  exact ⟨rfl, rfl, rfl, rfl, rfl, rfl, rfl, rfl, rfl, rfl, rfl, rfl, rfl, rfl, rfl, rfl, rfl⟩

/-- IRQ_PEND clears the bits written as 1 (R44, R264). -/
theorem writeOther_irqPend (d : Word) (s : State) :
    writeOther irqPendAddr d s = { s with irqPend := s.irqPend &&& ~~~(d.extractLsb' 0 2) } := rfl

/-- IRQ_EN takes the two low bits (R45, R265). -/
theorem writeOther_irqEn (d : Word) (s : State) : writeOther 4 d s = { s with irqEn := d.extractLsb' 0 2 } := rfl

/-- A register that is neither CMD nor an interrupt register ignores a write (R43, R266). -/
theorem writeOther_readOnly {a : BitVec 3} (ha : a ∈ [0, 1, 2, 6, 7]) (d : Word) (s : State) :
    writeOther a d s = s := by
  fin_cases ha <;> rfl

/-- Only a write of IRQ_PEND can come too late for its cycle (R304). -/
theorem nextCycles_eq_false {a : BitVec 3} (ha : a ≠ irqPendAddr) (s : State) : nextCycles a s = false := by
  simp [nextCycles, ha]

/-- A host turn that writes a register other than CMD, in time for its cycle. -/
theorem step_write {s : State} {a : BitVec 3} {d : Word} {ts : List Turn} {rest : List HostAccess} (hwf : s.cfg.wf)
    (hturns : s.turns = .host :: ts) (hbus : s.hostBus = .write a d :: rest) (ha : a ≠ cmdAddr)
    (hn : nextCycles a s = false) : step s = .next (writeOther a d { s with turns := ts, hostBus := rest }) := by
  have hbus' : ({ s with turns := ts } : State).hostBus = .write a d :: rest := hbus
  rw [step_host hwf hturns, hostStep_other hbus' ha hn]

/-- Settles O36, by the write rule of each register. -/
theorem registerWrites : Obligations.RegisterWrites := by
  intro s a d ts rest hwf hturns hbus
  refine ⟨?_, ?_, ?_, fun ha => ?_⟩
  · rintro rfl hstage
    have hn : nextCycles 3 s = false := by simp [nextCycles, hstage]
    refine ⟨s.irqPend &&& ~~~(d.extractLsb' 0 2), ?_, fun k hk => by simp [hk]⟩
    exact (step_write hwf hturns hbus (by decide) hn).trans (congrArg _ (writeOther_irqPend d _))
  · rintro rfl hstage
    have hn : nextCycles 3 { s with turns := ts } = true := by simp [nextCycles, hstage, irqPendAddr]
    have hbus' : ({ s with turns := ts } : State).hostBus = .write 3 d :: rest := hbus
    rw [step_host hwf hturns, hostStep_late hbus' (by decide) hn]
  · rintro rfl
    refine ⟨d.extractLsb' 0 2, ?_, fun k hk => by simp [hk]⟩
    have hn : nextCycles 4 s = false := nextCycles_eq_false (by decide) s
    exact (step_write hwf hturns hbus (by decide) hn).trans (congrArg _ (writeOther_irqEn d _))
  · have hcmd : a ≠ cmdAddr := by rintro rfl; revert ha; decide
    have hpend : a ≠ irqPendAddr := by rintro rfl; revert ha; decide
    rw [step_write hwf hturns hbus hcmd (nextCycles_eq_false hpend s), writeOther_readOnly ha]

end Sys2Proof.Machine
end

section
/-! PROOFS. The framebuffer as the host and the draw unit use it: where a pixel lies (R61, R63), what a byte reads as (R66,
R67), and that no plan leaves the framebuffer (R60). -/

namespace Sys2Proof.Machine

/-- Settles O13: the coordinates of an in-range pixel are natural numbers, on which R61's quotient and remainder are the
model's; the byte exists by `byteAddr_lt`. -/
theorem pixelAddressing : Obligations.PixelAddressing := by
  intro cfg x y hx hxw hy hyh
  have hbyte : byteAddr cfg x y < cfg.fbBytes := byteAddr_lt (inRange_iff.2 ⟨⟨hx, hxw⟩, hy, hyh⟩)
  refine ⟨?_, by unfold bitPos; omega, hbyte⟩
  calc (byteAddr cfg x y : Int)
    _ = (y.toNat : Int) * cfg.rowBytes + (x.toNat : Int) / 8 := by simp [byteAddr]
    _ = y * (((cfg.width + 7) / 8 : Nat) : Int) + x / 8 := by
      rw [Int.toNat_of_nonneg hx, Int.toNat_of_nonneg hy, Cfg.rowBytes]

/-- Settles O25. -/
theorem plansStayInside : Obligations.PlansStayInside := planOf_inside

/-- A written byte reads as its value, and the read draws no free byte (R66). -/
theorem readByte_of_lookup {a : Nat} {s : State} {v : Byte} (h : s.mem.lookup a = some v) : readByte a s = (v, s) := by
  simp only [readByte, h]

/-- An unwritten byte reads as the next free byte (R67). -/
theorem readByte_of_unwritten {a : Nat} {s : State} (h : s.mem.written a = false) :
    readByte a s = (Config.freeByte s.draws, countDraw s) := by
  have hnone : s.mem.lookup a = none := by simpa [Memory.written] using h
  simp only [readByte, hnone]

theorem Memory.lookup_store_self (m : Memory) (a : Nat) (v : Byte) : (m.store a v).lookup a = some v := by
  rw [lookup_store, if_pos rfl]

/-- Settles O28, by what a store leaves at its own and at every other address (`Memory.lookup_store`). -/
theorem framebufferReadAfterWrite : Obligations.FramebufferReadAfterWrite := by
  intro s a b v
  have hself : (storeByte a v s).mem.lookup a = some v := s.mem.lookup_store_self a v
  refine ⟨readByte_of_lookup hself, fun hne => ?_, ?_, readByte_of_unwritten⟩
  · simp [hne]
  · rw [Memory.written, hself, Option.isSome_some]

end Sys2Proof.Machine
end

section
/-! PROOFS. The micro-ops of a command performed one draw step at a time and all at once (R190), and a command given to a
draw unit that still has some (R75). -/

namespace Sys2Proof.Machine

/-- An operation on a byte that does not touch the draw unit's own fields does not read what the unit has left to do. -/
theorem atByte_leaveOps {f : State → State} {left : List MicroOp} {s : State}
    (hf : f (leaveOps left s) = leaveOps left (f s)) (a : Nat) :
    atByte a (leaveOps left s) f = andThen (atByte a s f) fun t => .next (leaveOps left t) := by
  by_cases ha : a < s.cfg.fbBytes <;> simp [atByte, ha, hf]

/-- What a micro-op does is independent of what the draw unit has left to do (R190). -/
theorem performOp_leaveOps (op : MicroOp) (left : List MicroOp) (s : State) :
    performOp op (leaveOps left s) = andThen (performOp op s) fun t => .next (leaveOps left t) := by
  cases op with
  | rmw a k kind => exact atByte_leaveOps (by simp only [rmwByte_eq]; rfl) a
  | wr a v => exact atByte_leaveOps (by simp only [drawWrite_eq]; rfl) a
  | rdbit a k => exact atByte_leaveOps (by simp only [rdataFromBit_eq]; rfl) a
  | rdb a => exact atByte_leaveOps (by simp only [rdataFromByte_eq]; rfl) a
  | setinit => rfl
  | setrd v => rfl
  | err w => rfl
  | skip => rfl

/-- So a run of micro-ops is the same whatever the draw unit's own list of them holds. -/
theorem runOps_leaveOps (plan left : List MicroOp) (s : State) : runOps plan (leaveOps left s) = runOps plan s := by
  induction plan generalizing s with
  | nil => rfl
  | cons op rest ih =>
    rw [runOps_cons, runOps_cons, performOp_leaveOps]
    cases performOp op s with
    | next t => exact ih t
    | fault r => rfl
    | refused r => rfl

/-- A busy draw unit's step performs its first micro-op (R190). -/
theorem drawStep_busy {s : State} {op : MicroOp} {rest : List MicroOp} (hbusy : s.busy = true)
    (hops : s.ops = op :: rest) : drawStep s = andThen (performOp op s) fun t => .next (leaveOps rest t) := by
  simp only [drawStep, hbusy, hops, if_true]

/-- As many draw steps as a busy draw unit has micro-ops perform them all (R190). -/
theorem drawSteps_busy {s : State} {plan : List MicroOp} (hbusy : s.busy = true) (hops : s.ops = plan)
    (hne : plan ≠ []) : drawSteps plan.length s = runOps plan s := by
  induction plan generalizing s with
  | nil => exact absurd rfl hne
  | cons op rest ih =>
    rw [List.length_cons, drawSteps, drawStep_busy hbusy hops, runOps_cons]
    cases performOp op s with
    | next t =>
      show drawSteps rest.length (leaveOps rest t) = runOps rest t
      cases rest with
      | nil => rfl
      | cons next others => rw [ih rfl rfl (List.cons_ne_nil _ _), runOps_leaveOps]
    | fault r => rfl
    | refused r => rfl

/-- Finishing the pending command takes one draw step per micro-op that is left (R190). -/
theorem finishPending_eq_drawSteps {s : State} (hs : drawInv s) : finishPending s = drawSteps s.ops.length s := by
  obtain ⟨hidle, hbusy, -⟩ := hs
  cases hb : s.busy with
  | false => rw [finishPending_idle hb, hidle hb]; rfl
  | true =>
    obtain ⟨hops, -⟩ := hbusy hb
    rw [finishPending, if_pos hb, drawSteps_busy hb rfl hops]

/-- The pending micro-ops all complete, and leave the draw unit idle (R190). -/
theorem finishPending_completes {s : State} (hs : drawInv s) :
    ∃ u, finishPending s = .next u ∧ u.busy = false ∧ u.ops = [] := by
  obtain ⟨hidle, -, hinside⟩ := hs
  cases hb : s.busy with
  | false => exact ⟨s, finishPending_idle hb, hb, hidle hb⟩
  | true =>
    obtain ⟨u, hu⟩ := runOps_inside (s := s) hinside
    have hframe := runOps_frame hu
    exact ⟨u, by rw [finishPending, if_pos hb, hu], by rw [hframe], by rw [hframe]⟩

/-- A command starts where the pending one ends (R75; log entry 13). -/
theorem runCommand_of_finishPending {s u : State} (h : finishPending s = .next u) (hidle : u.busy = false)
    (c : Command) (plan : State → List MicroOp) : runCommand c plan s = runCommand c plan u := by
  rw [runCommand_idle hidle, runCommand, h, andThen_next]

theorem exec_of_finishPending {s u : State} (h : finishPending s = .next u) (hidle : u.busy = false) (i : Instr) :
    exec i s = exec i u := by
  cases i <;> exact runCommand_of_finishPending h hidle _ _

/-- Settles O23: the pending micro-ops stay inside the framebuffer, so they complete, and `exec` runs from there. -/
theorem commandWaitsForThePending : Obligations.CommandWaitsForThePending := by
  intro i s hs
  obtain ⟨u, hu, hidle, hops⟩ := finishPending_completes hs.draw
  exact ⟨u, finishPending_eq_drawSteps hs.draw ▸ hu, hidle, hops, exec_of_finishPending hu hidle i⟩

end Sys2Proof.Machine
end

section
/-! PROOFS. Commands that write whole bytes (R190, R194), and DIGIT (R230, R231). -/

namespace Sys2Proof.Machine

/-! ### Lists of byte writes -/

/-- The framebuffer after the given bytes are written in order (R66). -/
def Memory.storeAll (cells : List Host.Cell) (m : Memory) : Memory := cells.foldl (fun m c => m.store c.1 c.2) m

/-- The micro-ops that write the given bytes in order (R190). -/
def writeOps (cells : List Host.Cell) : List MicroOp := cells.map fun c => .wr c.1 c.2

@[simp] theorem Memory.storeAll_nil (m : Memory) : m.storeAll [] = m := rfl
@[simp] theorem Memory.storeAll_cons (c : Host.Cell) (rest : List Host.Cell) (m : Memory) :
    m.storeAll (c :: rest) = (m.store c.1 c.2).storeAll rest := rfl

/-- A byte that is not written stays as it was (R66). -/
theorem Memory.lookup_storeAll_of_forall_ne {cells : List Host.Cell} {a : Nat} (h : ∀ c ∈ cells, a ≠ c.1)
    (m : Memory) : (m.storeAll cells).lookup a = m.lookup a := by
  induction cells generalizing m with
  | nil => rfl
  | cons c rest ih =>
    have ⟨hc, hrest⟩ := List.forall_mem_cons.1 h
    rw [storeAll_cons, ih hrest, lookup_store, if_neg hc]

/-- A byte that is written with one value only reads as that value (R66). -/
theorem Memory.lookup_storeAll_of_mem {cells : List Host.Cell} {a : Nat} {v : Byte} (hmem : (a, v) ∈ cells)
    (hone : ∀ c ∈ cells, c.1 = a → c.2 = v) (m : Memory) : (m.storeAll cells).lookup a = some v := by
  induction cells generalizing m with
  | nil => cases hmem
  | cons c rest ih =>
    have ⟨_, hone'⟩ := List.forall_mem_cons.1 hone
    by_cases hlater : (a, v) ∈ rest
    · exact ih hlater hone' _
    · obtain rfl : (a, v) = c := (List.mem_cons.1 hmem).resolve_right hlater
      have hother : ∀ c ∈ rest, a ≠ c.1 := fun c hc ha => hlater (by rwa [ha, ← hone' c hc ha.symm])
      rw [storeAll_cons, lookup_storeAll_of_forall_ne hother, lookup_store_self]

/-- A run of byte writes inside the framebuffer: the bytes, the overlap flag when one falls on an active line, and an
idle draw unit (R190, R194). -/
theorem runOps_writeOps {cells : List Host.Cell} {s : State} (h : ∀ c ∈ cells, c.1 < s.cfg.fbBytes) :
    runOps (writeOps cells) s = .next { commandDone s with
      mem := s.mem.storeAll cells
      overlap := s.overlap || (decide (s.phase = .activePicture) && !cells.isEmpty) } := by
  induction cells generalizing s with
  | nil => simp [writeOps, leaveOps, commandDone]
  | cons c rest ih =>
    have ⟨hc, hrest⟩ := List.forall_mem_cons.1 h
    have hwrite : performOp (.wr c.1 c.2) s = .next (drawWrite c.1 c.2 s) := atByte_inside hc
    have hrest' : ∀ c' ∈ rest, c'.1 < (drawWrite c.1 c.2 s).cfg.fbBytes := by rw [drawWrite_eq]; exact hrest
    have hrun : runOps (writeOps (c :: rest)) s = runOps (writeOps rest) (drawWrite c.1 c.2 s) := by
      rw [writeOps, List.map_cons, runOps_cons, hwrite, andThen_next, writeOps]
    rw [hrun, ih hrest', drawWrite_eq]
    cases hactive : decide (s.phase = .activePicture) <;> simp [commandDone]

/-- A gated or clipped command does nothing (R190, R193). -/
theorem runCommand_skip {s : State} {plan : State → List MicroOp} (hidle : s.busy = false) (hplan : plan s = [.skip])
    (c : Command) : runCommand c plan s = .next (commandDone s) := by
  rw [runCommand_idle hidle, hplan]; rfl

/-- A command whose plan is byte writes inside the framebuffer (R190, R194). -/
theorem runCommand_writeOps {s : State} {plan : State → List MicroOp} {cells : List Host.Cell} (hidle : s.busy = false)
    (hplan : plan s = writeOps cells) (hinside : ∀ c ∈ cells, c.1 < s.cfg.fbBytes) (c : Command) :
    runCommand c plan s = .next { commandDone s with
      mem := s.mem.storeAll cells
      overlap := s.overlap || (decide (s.phase = .activePicture) && !cells.isEmpty) } := by
  rw [runCommand_idle hidle, hplan]
  exact runOps_writeOps (s := beginCommand c (writeOps cells) s) hinside

/-! ### DIGIT -/

/-- The glyph table has the glyphs 0 to 9 with rows 0 to 6 (R32, R69). -/
theorem glyphRead_eq (cfg : Cfg) {g r : Nat} (hg : g < 10) (hr : r < 7) : glyphRead cfg g r = cfg.glyphRom[g][r] := by
  simp [glyphRead, hg, hr]

/-- The byte that row `r` of a glyph at `(x, y)` replaces (R230, R231 b). -/
def digitAddr (cfg : Cfg) (x y : Int) (r : Nat) : Nat := (y.toNat + r) * cfg.rowBytes + x.toNat / 8

/-- The bytes that DIGIT writes: one for each row of the glyph that lies in the buffer (R230). -/
def digitCells (cfg : Cfg) (g : Nat) (x y : Int) : List Host.Cell :=
  (digitRows cfg y).map fun r => (digitAddr cfg x y r, glyphRead cfg g r)

/-- From a row of the buffer on, the rows of a glyph by their distance from the buffer's end (R231 d). -/
theorem mem_digitRows_toNat {cfg : Cfg} {y : Int} {r : Nat} (hy : 0 ≤ y) :
    r ∈ digitRows cfg y ↔ r < 7 ∧ y.toNat + r < cfg.height := by
  rw [mem_digitRows]; omega

/-- After INIT a digit at a place of the buffer plans its byte writes (R230). -/
theorem planDigit_drawn {g : Nat} {x y : Int} {s : State} (hinit : s.init = true) (hg : g ≤ 9)
    (hin : inRange s.cfg x y = true) : planDigit g x y s = writeOps (digitCells s.cfg g x y) := by
  obtain ⟨-, hy, -⟩ := inRange_iff.1 hin
  have hrow : ∀ r : Nat, (y + (r : Int)).toNat = y.toNat + r := fun r => by omega
  simp [planDigit, hinit, hg, hin, writeOps, digitCells, digitAddr, hrow]

/-- Everything else plans nothing (R192, R193, R231 a). -/
theorem planDigit_skip {g : Nat} {x y : Int} {s : State}
    (h : ¬(s.init = true ∧ g ≤ 9 ∧ inRange s.cfg x y = true)) : planDigit g x y s = [.skip] := by
  refine if_neg fun hdrawn => h ?_
  obtain ⟨hgate, hin⟩ := Bool.and_eq_true_iff.1 hdrawn
  obtain ⟨hinit, hg⟩ := Bool.and_eq_true_iff.1 hgate
  exact ⟨hinit, of_decide_eq_true hg, hin⟩

theorem digitCells_inside {cfg : Cfg} {x y : Int} (hin : inRange cfg x y = true) (g : Nat) :
    ∀ c ∈ digitCells cfg g x y, c.1 < cfg.fbBytes := by
  intro c hc
  obtain ⟨r, hr, rfl⟩ := List.mem_map.1 hc
  obtain ⟨-, hy, -⟩ := inRange_iff.1 hin
  obtain ⟨-, hrow⟩ := (mem_digitRows_toNat hy).1 hr
  exact rowByte_lt hrow (byteColumn_lt hin)

/-- The top row of a digit at a place of the buffer is drawn (R230). -/
theorem digitCells_isEmpty {cfg : Cfg} {x y : Int} (hin : inRange cfg x y = true) (g : Nat) :
    (digitCells cfg g x y).isEmpty = false := by
  obtain ⟨-, hy, hyh⟩ := inRange_iff.1 hin
  have htop : 0 ∈ digitRows cfg y := (mem_digitRows_toNat hy).2 ⟨by decide, by omega⟩
  exact List.isEmpty_eq_false_iff.2 (List.ne_nil_of_mem (List.mem_map_of_mem htop))

/-- The rows of a glyph lie in different bytes (R61). -/
theorem digitAddr_injective {cfg : Cfg} {x y : Int} (hin : inRange cfg x y = true) :
    Function.Injective (digitAddr cfg x y) := by
  intro r r' h
  have hpos : 0 < cfg.rowBytes := Nat.zero_lt_of_lt (byteColumn_lt hin)
  exact Nat.add_left_cancel (Nat.eq_of_mul_eq_mul_right hpos (Nat.add_right_cancel h))

/-- A drawn row's byte holds the glyph's row (R69, R230). -/
theorem lookup_storeAll_digitCells {cfg : Cfg} {x y : Int} {r : Nat} (hin : inRange cfg x y = true)
    (hr : r ∈ digitRows cfg y) (g : Nat) (m : Memory) :
    (m.storeAll (digitCells cfg g x y)).lookup (digitAddr cfg x y r) = some (glyphRead cfg g r) := by
  refine Memory.lookup_storeAll_of_mem (List.mem_map.2 ⟨r, hr, rfl⟩) (fun c hc haddr => ?_) m
  obtain ⟨r', -, rfl⟩ := List.mem_map.1 hc
  exact congrArg (glyphRead cfg g) (digitAddr_injective hin haddr)

/-- Settles O17: DIGIT plans one write per drawn row, to bytes of the buffer that are all different. -/
theorem digitReplacesItsBytes : Obligations.DigitReplacesItsBytes := by
  intro s g x y hidle
  refine ⟨fun hg hinit hin => ?_, fun hnot => runCommand_skip hidle (planDigit_skip hnot) _⟩
  obtain ⟨-, hy, -⟩ := inRange_iff.1 hin
  refine ⟨s.mem.storeAll (digitCells s.cfg g x y), ?_, fun r hr hrow => ?_, fun a ha => ?_⟩
  · have hplan : planDigit g x y s = writeOps (digitCells s.cfg g x y) := planDigit_drawn hinit (by omega) hin
    have hrun := runCommand_writeOps hidle hplan (digitCells_inside hin g) (.legal (.digit g x y))
    rw [digitCells_isEmpty hin, Bool.not_false, Bool.and_true] at hrun
    exact hrun
  · rw [← glyphRead_eq s.cfg hg hr]
    exact lookup_storeAll_digitCells hin ((mem_digitRows_toNat hy).2 ⟨hr, hrow⟩) g s.mem
  · refine Memory.lookup_storeAll_of_forall_ne (fun c hc => ?_) s.mem
    obtain ⟨r, hr, rfl⟩ := List.mem_map.1 hc
    obtain ⟨hr7, hrow⟩ := (mem_digitRows_toNat hy).1 hr
    exact ha r hr7 hrow

end Sys2Proof.Machine
end

section
/-! PROOFS. A framebuffer write and the serializer's read of one byte in one cycle (R76, R177, R348). -/

namespace Sys2Proof.Machine

/-- The write that a micro-op makes on a byte it finds holding `old`: of a given value, or of that byte changed (R190). -/
def WritesByte (op : MicroOp) (a : Nat) (old new : Byte) : Prop :=
  op = .wr a new ∨ ∃ k kind, op = .rmw a k kind ∧ new = pixelByte kind k old

theorem WritesByte.addr_lt {op : MicroOp} {a : Nat} {old new : Byte} {cfg : Cfg} (h : WritesByte op a old new)
    (hinside : opInside cfg op = true) : a < cfg.fbBytes := by
  rcases h with rfl | ⟨k, kind, rfl, -⟩
  · exact of_decide_eq_true hinside
  · exact (of_decide_eq_true hinside).1

/-- On a written byte both kinds of write are `DrawWrite` of their value (R191, R194). -/
theorem WritesByte.performOp {op : MicroOp} {a : Nat} {old new : Byte} {s : State} (h : WritesByte op a old new)
    (hinside : opInside s.cfg op = true) (hold : s.mem.lookup a = some old) :
    performOp op s = .next (drawWrite a new s) := by
  have ha := h.addr_lt hinside
  rcases h with rfl | ⟨k, kind, rfl, rfl⟩
  · exact atByte_inside ha
  · exact (atByte_inside ha).trans (by rw [rmwByte, readByte_of_lookup hold])

/-- The draw unit's turn, when it may step, makes its first micro-op's write (R190, R194, R356). -/
theorem drawTurn_write {s : State} {op : MicroOp} {rest : List MicroOp} {a : Nat} {old new : Byte}
    (henabled : drawEnabled s = true) (hbusy : s.busy = true) (hops : s.ops = op :: rest)
    (hwrite : WritesByte op a old new) (hinside : opInside s.cfg op = true) (hold : s.mem.lookup a = some old) :
    drawTurn s = .next (leaveOps rest { s with
      mem := s.mem.store a new
      overlap := s.overlap || decide (s.phase = .activePicture) }) := by
  rw [drawTurn, if_pos henabled, drawStep_busy hbusy hops, hwrite.performOp hinside hold, andThen_next, drawWrite_eq]

/-- The serializer's turn reads the next byte of a line that is shown (R165). -/
theorem serialStep_written {s : State} {v : Byte} (hbusy : s.serBusy = true) (hshown : s.serBlank = false)
    (hlt : s.serIdx < s.cfg.rowBytes) (hinside : s.serRow * s.cfg.rowBytes + s.serIdx < s.cfg.fbBytes)
    (hv : s.mem.lookup (s.serRow * s.cfg.rowBytes + s.serIdx) = some v) :
    serialStep s = .next (pushLineByte v s) := by
  simp [serialStep, serReadByte, hbusy, hshown, hlt, hinside, readByte_of_lookup hv]

/-- A run of two turns: the first, and then the second on what the first leaves. -/
theorem run_two_turns {s t u : State} {first second : Turn} {ts : List Turn} (hwf : s.cfg.wf)
    (hturns : s.turns = first :: second :: ts) (hfirst : takeTurn first { s with turns := second :: ts } = .next t)
    (hwf' : t.cfg.wf) (hturns' : t.turns = second :: ts) (hsecond : takeTurn second { t with turns := ts } = .next u) :
    Host.Core.run Sys2Proof.core 2 s = .next u := by
  rw [run_succ ((step_turn hwf hturns).trans hfirst), run_succ ((step_turn hwf' hturns').trans hsecond), run_zero]

/-- Settles O48: the draw unit's turn and the serializer's each find what they need whichever comes first, and the read gives
what the byte holds at its turn. -/
theorem readAndWriteOrderIsFree : Obligations.ReadAndWriteOrderIsFree := by
  intro s op new old v a k kind ts rest hs hcycle hser hshown hlt hbusy henabled hops ha hold hop
  obtain ⟨-, -, hinside⟩ := hs.draw
  obtain ⟨hlen, -⟩ := hs.serial
  obtain ⟨-, -, hdeadlines⟩ := hs.clock
  obtain ⟨-, -, hwindow⟩ := hdeadlines hcycle hser
  have hplace : s.serIdx < s.serBuf.length := by omega
  have hopInside : opInside s.cfg op = true := hinside op (by simp [hops])
  have hwrite : WritesByte op a old new := by
    rcases List.mem_pair.1 hop with heq | heq <;> obtain ⟨rfl, rfl⟩ := Prod.mk.inj heq
    · exact .inl rfl
    · exact .inr ⟨k, kind, rfl, rfl⟩
  have hbyte : a < s.cfg.fbBytes := hwrite.addr_lt hopInside
  have hnew : (s.mem.store a new).lookup a = some new := s.mem.lookup_store_self a new
  subst ha
  refine ⟨hwindow hlt, fun hturns => ?_, fun hturns => ?_⟩
  · have hdraw := drawTurn_write (s := { s with turns := .serial :: ts }) henabled hbusy hops hwrite hopInside hold
    have hrun := run_two_turns hs.cfgOk hturns hdraw hs.cfgOk rfl (serialStep_written hser hshown hlt hbyte hnew)
    exact ⟨_, hrun, List.getElem?_set_self hplace, rfl, hnew, rfl, rfl⟩
  · have hread := serialStep_written (s := { s with turns := .draw :: ts }) hser hshown hlt hbyte hold
    have hrun := run_two_turns hs.cfgOk hturns hread hs.cfgOk rfl
      (drawTurn_write henabled hbusy hops hwrite hopInside hold)
    exact ⟨_, hrun, List.getElem?_set_self hplace, rfl, hnew, rfl, rfl⟩

end Sys2Proof.Machine
end

section
/-! PROOFS. The encoding of commands (R90 to R96, R101 to R103): legal headers, the decoder on them, and its inverse. -/

namespace Sys2Proof

/-! ### Legal headers -/

/-- R94's three conditions. -/
theorem headerLegal_iff {h : Word} :
    headerLegal h = true ↔
      opField h ≤ 9 ∧ rsvField h = 0#4 ∧ (immField h = 0#8 ∨ takesImm (opField h) = true) := by
  simp [headerLegal, and_assoc]

@[simp] theorem headerLegal_header (op : BitVec 4) (imm : Byte) :
    headerLegal (header op imm) = (decide (op.toNat ≤ 9) && (imm == 0#8 || takesImm op.toNat)) := by
  simp [headerLegal]

/-- A legal header of opcode `op` is the one its assembler writes, with the immediate it carries. -/
theorem header_of_legal {h : Word} {op : BitVec 4} (hlegal : headerLegal h = true) (hop : opField h = op.toNat) :
    header op (immField h) = h := by
  obtain ⟨-, hrsv, -⟩ := headerLegal_iff.1 hlegal
  have hfield : op = h.extractLsb' 12 4 := BitVec.eq_of_toNat_eq hop.symm
  rw [hfield, header_of_fields hrsv]

/-- On an opcode that takes no immediate a legal header carries none. -/
theorem header_zero_of_legal {h : Word} {op : BitVec 4} (hlegal : headerLegal h = true) (hop : opField h = op.toNat)
    (htakes : takesImm op.toNat = false) : header op 0#8 = h := by
  obtain ⟨-, -, himm⟩ := headerLegal_iff.1 hlegal
  have hzero : immField h = 0#8 := himm.resolve_right (by simp [hop, htakes])
  rw [← hzero, header_of_legal hlegal hop]

/-! ### The decoder -/

/-- A legal header leaves the decoding to the operands (R96). -/
theorem decode_of_legal {h : Word} (hlegal : headerLegal h = true) (operands : List Word) :
    decode (h :: operands) = decodeOperands h operands := by
  obtain ⟨hop, hrsv, himm⟩ := headerLegal_iff.1 hlegal
  have hstray : ¬(immField h ≠ 0#8 ∧ takesImm (opField h) = false) := by
    rintro ⟨hne, hno⟩
    exact himm.elim hne (by simp [hno])
  simp only [decode]
  rw [if_neg (by omega), if_neg (not_not_intro hrsv), if_neg hstray]

/-- Only a legal header starts a command (R96, R292). -/
theorem headerLegal_of_decode {h : Word} {operands : List Word} {i : Instr}
    (hi : decode (h :: operands) = .command i) : headerLegal h = true := by
  simp only [decode] at hi
  split at hi
  · cases hi
  · split at hi
    · cases hi
    · split at hi
      · cases hi
      · rename_i hop hrsv himm
        rw [headerLegal_iff]
        exact ⟨by omega, not_not.1 hrsv, by simpa [or_iff_not_imp_left] using himm⟩

/-- What decodes is a legal header with the operands of its opcode (R96). -/
theorem decode_eq_command {ws : List Word} {i : Instr} (hi : decode ws = .command i) :
    ∃ h operands, ws = h :: operands ∧ headerLegal h = true ∧ decodeOperands h operands = .command i := by
  cases ws with
  | nil => cases hi
  | cons h operands =>
    have hlegal := headerLegal_of_decode hi
    exact ⟨h, operands, rfl, hlegal, decode_of_legal hlegal operands ▸ hi⟩

/-- The operands of a legal header give a well-formed command, whose words are that header and those operands. -/
theorem encode_of_decodeOperands {h : Word} {operands : List Word} {i : Instr} (hlegal : headerLegal h = true)
    (hi : decodeOperands h operands = .command i) : i.wf = true ∧ encode i = h :: operands := by
  unfold decodeOperands at hi
  split at hi <;> cases hi
  -- CLEAR and DIGIT carry their header's immediate, RDBYTE an unsigned word, every other command words as they are.
  case h_3 hop => simp [Instr.wf, encode, header_of_legal hlegal, hop]
  case h_8 hop =>
    have hglyph : (immField h).toNat ≤ 255 := Nat.le_of_lt_succ (immField h).isLt
    simp [Instr.wf, encode, header_of_legal hlegal, hop, hglyph]
  case h_10 i hop =>
    have hindex : i.toNat ≤ 65535 := Nat.le_of_lt_succ i.isLt
    simp [Instr.wf, encode, header_zero_of_legal hlegal, hop, takesImm, hindex]
  case h_1 hop | h_2 hop | h_4 hop | h_5 hop | h_6 hop | h_7 hop | h_9 hop =>
    simp [Instr.wf, encode, header_zero_of_legal hlegal, hop, takesImm]

/-! ### Decoding and encoding -/

/-- Settles O1: the header of a command is legal and gives back its opcode and immediate, and an operand in its range is
the value of its word. -/
theorem decodeOfEncode : Obligations.DecodeOfEncode := by
  intro i hwf
  cases i with
  | nop | init => rfl
  | clear p => simp [encode, decode_of_legal, decodeOperands, takesImm]
  | pset | preset | pflip | line | pget =>
    simp only [Instr.wf, decide_eq_true_eq] at hwf
    simp [encode, decode_of_legal, decodeOperands, hwf]
  | digit g x y =>
    simp only [Instr.wf, decide_eq_true_eq] at hwf
    obtain ⟨hg, hx, hy⟩ := hwf
    have hglyph : g % 256 = g := Nat.mod_eq_of_lt (by omega)
    simp [encode, decode_of_legal, decodeOperands, takesImm, hx, hy, hglyph]
  | rdbyte i =>
    simp only [Instr.wf, decide_eq_true_eq] at hwf
    have hindex : i % 65536 = i := Nat.mod_eq_of_lt (by omega)
    simp [encode, decode_of_legal, decodeOperands, hindex]

/-- Settles O2, by the inverse of each opcode's decoding. -/
theorem encodeOfDecode : Obligations.EncodeOfDecode := by
  intro ws i hi
  obtain ⟨h, operands, rfl, hlegal, hoperands⟩ := decode_eq_command hi
  exact encode_of_decodeOperands hlegal hoperands

/-- Every legal header with as many operand words as its opcode asks for has operands (R91, R92). -/
theorem exists_decodeOperands {h : Word} {operands : List Word} (hop : opField h ≤ 9)
    (hlen : operands.length + 1 = cmdLen (opField h)) : ∃ i, decodeOperands h operands = .command i := by
  unfold decodeOperands
  generalize opField h = op at hop hlen
  match op, hop, hlen with
  | 0, _, hlen | 1, _, hlen | 2, _, hlen =>
    obtain rfl := List.length_eq_zero_iff.1 (Nat.succ.inj hlen)
    exact ⟨_, rfl⟩
  | 9, _, hlen =>
    obtain ⟨w, rfl⟩ := List.length_eq_one_iff.1 (Nat.succ.inj hlen)
    exact ⟨_, rfl⟩
  | 3, _, hlen | 4, _, hlen | 5, _, hlen | 7, _, hlen | 8, _, hlen =>
    obtain ⟨x, y, rfl⟩ := List.length_eq_two.1 (Nat.succ.inj hlen)
    exact ⟨_, rfl⟩
  | 6, _, hlen =>
    obtain ⟨x0, y0, x1, y1, rfl⟩ := List.length_eq_four.1 (Nat.succ.inj hlen)
    exact ⟨_, rfl⟩
  | _ + 10, hop, _ => omega

/-- Settles O3: the header alone can reject words of the right length. -/
theorem legalHeadersAreTheCommands : Obligations.LegalHeadersAreTheCommands := by
  intro h operands hlen
  have hlegal : headerLegal h = true ↔ (h.extractLsb' 12 4).toNat ≤ 9 ∧ h.extractLsb' 8 4 = 0#4 ∧
      (h.extractLsb' 0 8 = 0#8 ∨ (h.extractLsb' 12 4).toNat = 2 ∨ (h.extractLsb' 12 4).toNat = 7) := by
    simp [headerLegal_iff, takesImm, opField, rsvField, immField]
  rw [← hlegal]
  constructor
  · rintro ⟨i, hi⟩
    exact headerLegal_of_decode hi
  · intro hlegal
    rw [decode_of_legal hlegal]
    obtain ⟨hop, -⟩ := headerLegal_iff.1 hlegal
    exact exists_decodeOperands hop hlen

/-! ### The opcode map -/

/-- The row of R95 for opcode `op`: its `match` is the header with no immediate, its `mask` leaves out an immediate. -/
def opcodeRow (op : Nat) : Word × Word := (header (BitVec.ofNat 4 op) 0, if takesImm op then 0xFF00 else 0xFFFF)

theorem opcodeRows_eq : opcodeRows = (List.range 10).map opcodeRow := by decide

/-- A word without its low byte. -/
theorem toNat_and_highByte (h : Word) : (h &&& 0xFF00#16).toNat = h.toNat / 256 * 256 := by
  have hmask : 0xFF00#16 = BitVec.allOnes 16 <<< 8 := by decide
  have := h.isLt
  rw [hmask, ← BitVec.shiftLeft_ushiftRight]
  simp [Nat.shiftLeft_eq, Nat.shiftRight_eq_div_pow]
  omega

theorem rsvField_eq_zero_iff {h : Word} : rsvField h = 0#4 ↔ h.toNat / 256 % 16 = 0 := by
  rw [BitVec.toNat_eq, toNat_rsvField]
  rfl

/-- A header matches the row of an opcode if it is a legal header of that opcode (R94, R95). -/
theorem matches_opcodeRow_iff {h : Word} {op : Nat} (hop : op ≤ 9) :
    h &&& (opcodeRow op).2 = (opcodeRow op).1 ↔ headerLegal h = true ∧ op = opField h := by
  have hopNat : (BitVec.ofNat 4 op).toNat = op := Nat.mod_eq_of_lt (by omega)
  cases himm : takesImm op with
  | true =>
    have hrow : opcodeRow op = (header (BitVec.ofNat 4 op) 0#8, 0xFF00#16) := by simp [opcodeRow, himm]
    have hmatch : h &&& 0xFF00#16 = header (BitVec.ofNat 4 op) 0#8 ↔ h.toNat / 256 * 256 = op * 4096 := by
      rw [BitVec.toNat_eq, toNat_and_highByte, toNat_header, hopNat, BitVec.toNat_zero, Nat.add_zero]
    rw [hrow, hmatch, headerLegal_iff, rsvField_eq_zero_iff, opField_eq]
    constructor
    · intro hnum
      have hfield : op = h.toNat / 4096 := by omega
      exact ⟨⟨hfield ▸ hop, by omega, .inr (hfield ▸ himm)⟩, hfield⟩
    · rintro ⟨⟨-, hrsv, -⟩, hfield⟩
      omega
  | false =>
    have hrow : opcodeRow op = (header (BitVec.ofNat 4 op) 0#8, BitVec.allOnes 16) := by simp [opcodeRow, himm]
    rw [hrow, BitVec.and_allOnes]
    constructor
    · rintro rfl
      rw [headerLegal_header, opField_header, hopNat]
      simp [hop]
    · rintro ⟨hlegal, hfield⟩
      exact (header_zero_of_legal hlegal (hfield.symm.trans hopNat.symm) (hopNat.symm ▸ himm)).symm

/-- Settles O4: the matching rows are those of the header's own opcode, of which the map has one. -/
theorem headerMatchesOneRow : Obligations.HeaderMatchesOneRow := by
  intro h
  have hfilter : (List.range 10).filter ((fun r => h &&& r.2 == r.1) ∘ opcodeRow) =
      (List.range 10).filter fun op => headerLegal h && op == opField h := by
    refine List.filter_congr fun op hop => ?_
    rw [Bool.eq_iff_iff]
    simpa using matches_opcodeRow_iff (Nat.le_of_lt_succ (List.mem_range.1 hop))
  rw [opcodeRows_eq, List.filter_map, List.length_map, hfilter]
  split
  case isTrue hlegal =>
    obtain ⟨hop, -⟩ := headerLegal_iff.1 hlegal
    have hcount : (List.range 10).count (opField h) = 1 :=
      List.count_eq_one_of_mem List.nodup_range (List.mem_range.2 (Nat.lt_succ_of_le hop))
    simpa only [hlegal, Bool.true_and, ← List.count_eq_length_filter] using hcount
  case isFalse hlegal => simp [hlegal]

/-! ### The written forms -/

/-- An immediate under its opcode's first byte is the header with that immediate (R90). -/
theorem append_eq_header (op : BitVec 4) (imm : Byte) : (op ++ 0#4) ++ imm = header op imm := BitVec.append_assoc

/-- Settles O5: each header is legal, and each operand is its word's value, signed for a coordinate and unsigned for an
index. -/
theorem decodesEveryOpcode : Obligations.DecodesEveryOpcode := by
  intro a b c d p
  have hclear : decode [0x20#8 ++ p] = .command (.clear p) := by
    have hheader : 0x20#8 ++ p = header 2 p := append_eq_header 2 p
    rw [hheader, decode_of_legal (by simp [takesImm])]
    simp [decodeOperands]
  have hdigit : decode [0x70#8 ++ p, a, b] = .command (.digit p.toNat a.toInt b.toInt) := by
    have hheader : 0x70#8 ++ p = header 7 p := append_eq_header 7 p
    rw [hheader, decode_of_legal (by simp [takesImm])]
    simp [decodeOperands, int16]
  exact ⟨decode_of_legal rfl [], decode_of_legal rfl [], hclear, decode_of_legal rfl [a, b],
    decode_of_legal rfl [a, b], decode_of_legal rfl [a, b], decode_of_legal rfl [a, b, c, d], hdigit,
    decode_of_legal rfl [a, b], decode_of_legal rfl [a]⟩

/-- Settles O6, by evaluation of the encoder and the decoder on the written words. -/
theorem decodesTheWrittenExamples : Obligations.DecodesTheWrittenExamples := by
  unfold Obligations.DecodesTheWrittenExamples
  decide

/-- Settles O7, by evaluation at each of the sixteen opcodes. -/
theorem lengthsByOpcode : Obligations.LengthsByOpcode := by
  unfold Obligations.LengthsByOpcode
  decide

end Sys2Proof

namespace Sys2Proof.Machine

/-- A line of one point stops where it starts (R221, R222). -/
theorem bresenhamPoints_self (x y : Int) : bresenhamPoints x y x y = [(x, y)] := by
  simp [bresenhamPoints, bresenhamFrom]

/-- The one pixel of such a line is the one PSET sets, and with the pixel off the buffer neither does anything (R210,
R220). -/
theorem planLine_self (x y : Int) (s : State) : planLine x y x y s = planPset x y s := by
  cases hinit : s.init <;> cases hin : inRange s.cfg x y <;>
    simp [planLine, linePixels, bresenhamPoints_self, orSkip, planPset, planPixel, hinit, hin]

/-- Settles O8: each expansion is the definition's, and the line that DOT stands for has one point. -/
theorem pseudoInstructionsExpand : Obligations.PseudoInstructionsExpand := by
  intro s x y x0 x1 y0 y1
  exact ⟨rfl, rfl, rfl, rfl, rfl, bresenhamPoints_self x y, planLine_self x y s⟩

end Sys2Proof.Machine
end

section
/-! PROOFS. The command assembler over a whole command (R91, R97, R99, R262). -/

namespace Sys2Proof.Machine

/-- The assembler has taken exactly the words `done` (R33, R262). -/
structure Assembled (done : List Word) (s : State) : Prop where
  idx : s.asmIdx.toNat = done.length
  words : s.asmBuf.toList.take done.length = done

/-- An empty assembler has taken no words. -/
theorem assembled_nil {s : State} (h : s.asmIdx = 0) : Assembled [] s := ⟨by rw [h]; rfl, rfl⟩

/-- The next word stands after the words taken (R262). -/
theorem Assembled.take_asmStore {done : List Word} {s : State} (h : Assembled done s) (hroom : done.length < 5)
    (w : Word) : (asmStore w s).toList.take (done.length + 1) = done ++ [w] := by
  have hlen : done.length < s.asmBuf.toList.length := by simpa using hroom
  rw [asmStore, h.idx, Vector.toList_setIfInBounds, List.take_add_one, List.take_set_of_le (Nat.le_refl _), h.words,
    List.getElem?_set_self hlen, Option.toList_some]

/-- The length asked for is that of the first word's opcode (R91). -/
theorem asmLength_of_take {buf : Vector Word 5} {n : Nat} {h : Word} {more : List Word}
    (hbuf : buf.toList.take n = h :: more) : asmLength buf = cmdLen (opField h) := by
  have hfirst : buf.toList[0]? = some h := by
    have hn : 0 < n := by by_contra hn; simp [Nat.eq_zero_of_not_pos hn] at hbuf
    rw [← List.getElem?_take_of_lt hn, hbuf, List.getElem?_cons_zero]
  have hheader : buf.getD 0 0 = h := by simpa [Vector.getD, Array.getD] using hfirst
  rw [asmLength, hheader]

/-- With room for it, the next word of a command leaves the assembler asking for the length of its header's opcode. -/
theorem Assembled.asmLength_asmStore {done more operands : List Word} {h w : Word} {s : State} (hs : Assembled done s)
    (hroom : done.length < 5) (hwords : done ++ w :: more = h :: operands) :
    asmLength (asmStore w s) = cmdLen (opField h) := by
  have hfront : done ++ [w] = (h :: operands).take (done.length + 1) := by
    simp [← hwords, List.take_append]
  exact asmLength_of_take ((hs.take_asmStore hroom w).trans hfront)

/-- The assembler after an inner word. -/
theorem Assembled.storeWord {done : List Word} {s t : State} {w : Word} (hs : Assembled done s)
    (hroom : done.length < 5) (hbuf : t.asmBuf = asmStore w s) (hidx : t.asmIdx = s.asmIdx + 1) :
    Assembled (done ++ [w]) t := by
  have hcount : (done ++ [w]).length = done.length + 1 := List.length_append
  constructor
  case idx =>
    rw [hidx, hcount, BitVec.toNat_add, hs.idx]
    exact Nat.mod_eq_of_lt (by simp; omega)
  case words => rw [hcount, hbuf, hs.take_asmStore hroom]

section
variable {s : State} {w : Word} {ts : List Turn} {rest : List HostAccess}

/-- A host turn that writes a word of a command to an idle block hands it to the assembler (R262). -/
theorem step_writeCmd (hwf : s.cfg.wf) (hidle : s.busy = false) (hturns : s.turns = .host :: ts)
    (hbus : s.hostBus = .write 5 w :: rest) :
    step s = .next (writeCmd w { s with turns := ts, hostBus := rest }) :=
  (step_host hwf hturns).trans (congrArg _ (hostStep_cmd (s := { s with turns := ts }) hbus hidle))

/-- The host turn of a command's inner word. -/
theorem step_innerWord (hwf : s.cfg.wf) (hidle : s.busy = false) (hturns : s.turns = .host :: ts)
    (hbus : s.hostBus = .write 5 w :: rest) (hmore : s.asmIdx.toNat + 1 ≠ asmLength (asmStore w s)) :
    step s = .next { s with turns := ts, hostBus := rest, asmBuf := asmStore w s, asmIdx := s.asmIdx + 1 } :=
  (step_writeCmd hwf hidle hturns hbus).trans
    (congrArg _ (writeCmd_more (s := { s with turns := ts, hostBus := rest }) hmore))

/-- The host turn of a command's last word. -/
theorem step_lastWord (hwf : s.cfg.wf) (hidle : s.busy = false) (hturns : s.turns = .host :: ts)
    (hbus : s.hostBus = .write 5 w :: rest) (hlast : s.asmIdx.toNat + 1 = asmLength (asmStore w s)) :
    step s = .next (acceptCommand (commandOf ((asmStore w s).toList.take (asmLength (asmStore w s))))
      { s with turns := ts, hostBus := rest, asmBuf := asmStore w s, asmIdx := 0 }) :=
  (step_writeCmd hwf hidle hturns hbus).trans
    (congrArg _ (writeCmd_last (s := { s with turns := ts, hostBus := rest }) hlast))

end

/-- The words taken, the next one and those after it are as many as the header's opcode asks for, at most five (R91). -/
theorem length_of_words {done more operands : List Word} {h w : Word} (hwords : done ++ w :: more = h :: operands)
    (hlen : operands.length + 1 = cmdLen (opField h)) :
    done.length + (more.length + 1) = cmdLen (opField h) ∧ done.length < 5 := by
  have hcount : done.length + (more.length + 1) = cmdLen (opField h) := by
    rw [← hlen]
    simpa using congrArg List.length hwords
  have := cmdLen_bounds (opField h)
  exact ⟨hcount, by omega⟩

/-- The words still to come of a command, written to an idle block that has taken the others, end as that command,
accepted. -/
theorem run_remainingWords {done operands : List Word} {h w : Word} {more : List Word} {s : State} {ts : List Turn}
    {rest : List HostAccess} (hwf : s.cfg.wf) (hidle : s.busy = false) (hdone : Assembled done s)
    (hwords : done ++ w :: more = h :: operands) (hlen : operands.length + 1 = cmdLen (opField h))
    (hturns : s.turns = .host :: (List.replicate more.length .host ++ ts))
    (hbus : s.hostBus = .write 5 w :: (more.map (.write 5) ++ rest)) :
    ∃ buf, Host.Core.run Sys2Proof.core (more.length + 1) s =
      .next (acceptCommand (commandOf (h :: operands))
        { s with turns := ts, hostBus := rest, asmBuf := buf, asmIdx := 0 }) := by
  induction more generalizing done w s with
  | nil =>
    obtain ⟨hcount, hroom⟩ := length_of_words hwords hlen
    have hlast : s.asmIdx.toNat + 1 = asmLength (asmStore w s) := by
      rw [hdone.idx, hdone.asmLength_asmStore hroom hwords]
      exact hcount
    have hall : (asmStore w s).toList.take (asmLength (asmStore w s)) = h :: operands := by
      rw [← hlast, hdone.idx, hdone.take_asmStore hroom, hwords]
    have hstep := step_lastWord hwf hidle hturns hbus hlast
    rw [hall] at hstep
    exact ⟨asmStore w s, run_succ hstep 0⟩
  | cons next more ih =>
    obtain ⟨hcount, hroom⟩ := length_of_words hwords hlen
    have hmore : s.asmIdx.toNat + 1 ≠ asmLength (asmStore w s) := by
      rw [hdone.idx, hdone.asmLength_asmStore hroom hwords, ← hcount, List.length_cons]
      omega
    rw [run_succ (step_innerWord hwf hidle hturns hbus hmore)]
    exact ih hwf hidle (hdone.storeWord hroom rfl rfl) ((List.append_assoc ..).trans hwords) rfl rfl

/-- Settles O31: from an empty assembler all the words are still to come. -/
theorem wordsAreFramedByTheOpcode : Obligations.WordsAreFramedByTheOpcode := by
  intro s h operands ts rest hwf hidle hempty hlen hturns hbus
  exact run_remainingWords hwf hidle (assembled_nil hempty) rfl hlen hturns hbus

end Sys2Proof.Machine
end

section
/-! PROOFS. The field's regions (R120 to R123) and the TICK of the line level (R125, R126, R128, R163). -/

namespace Sys2Proof.Machine

/-! ### Regions of the field -/

section
variable {cfg : Cfg} {c : Nat}

theorem phaseOf_eq_activePicture_iff : phaseOf cfg c = .activePicture ↔ c < cfg.active := by
  unfold phaseOf
  split
  · exact iff_of_true rfl ‹_›
  · refine iff_of_false ?_ ‹_›
    split_ifs <;> decide

/-- Post-render blank (R121). -/
theorem phaseOf_postRender (hfrom : cfg.active ≤ c) (hto : c < cfg.eqBeforeStart) : phaseOf cfg c = .blank := by
  have hactive : ¬c < cfg.activeEnd := Nat.not_lt.2 hfrom
  rw [phaseOf, if_neg hactive, if_pos hto]

/-- The equalizing lines before vertical sync (R121). -/
theorem phaseOf_eqBefore (hfrom : cfg.eqBeforeStart ≤ c) (hto : c < cfg.vsyncStart) : phaseOf cfg c = .equalizing := by
  have hactive : ¬c < cfg.activeEnd := Nat.not_lt.2 ((Nat.le_add_right ..).trans hfrom)
  rw [phaseOf, if_neg hactive, if_neg (Nat.not_lt.2 hfrom), if_pos hto]

/-- From vertical sync on, the three regions before it are past (R121). -/
theorem phaseOf_of_vsyncStart_le (h : cfg.vsyncStart ≤ c) :
    phaseOf cfg c = if c < cfg.eqAfterStart then .verticalSync else if c < cfg.preBlankStart then .equalizing
      else .blank := by
  have hequal : cfg.eqBeforeStart ≤ c := (Nat.le_add_right ..).trans h
  have hactive : ¬c < cfg.activeEnd := Nat.not_lt.2 ((Nat.le_add_right ..).trans hequal)
  rw [phaseOf, if_neg hactive, if_neg (Nat.not_lt.2 hequal), if_neg (Nat.not_lt.2 h)]

theorem phaseOf_vsync (hfrom : cfg.vsyncStart ≤ c) (hto : c < cfg.eqAfterStart) : phaseOf cfg c = .verticalSync := by
  rw [phaseOf_of_vsyncStart_le hfrom, if_pos hto]

/-- From the end of vertical sync on, two regions are left (R121). -/
theorem phaseOf_of_eqAfterStart_le (h : cfg.eqAfterStart ≤ c) :
    phaseOf cfg c = if c < cfg.preBlankStart then .equalizing else .blank := by
  rw [phaseOf_of_vsyncStart_le ((Nat.le_add_right ..).trans h), if_neg (Nat.not_lt.2 h)]

/-- Pre-render blank, and every line beyond the field (R121; log entry 16). -/
theorem phaseOf_preRender (hfrom : cfg.preBlankStart ≤ c) : phaseOf cfg c = .blank := by
  rw [phaseOf_of_eqAfterStart_le ((Nat.le_add_right ..).trans hfrom), if_neg (Nat.not_lt.2 hfrom)]

end

/-- Settles O42: the thresholds of R120 in their order, and the width classes by evaluation. -/
theorem phaseRegions : Obligations.PhaseRegions := by
  refine ⟨fun cfg c => ⟨rfl, phaseOf_eq_activePicture_iff.2, phaseOf_postRender, phaseOf_eqBefore, phaseOf_vsync,
    fun hfrom hto => ?_, fun hfrom _ => phaseOf_preRender hfrom⟩, rfl, rfl, rfl, rfl⟩
  exact (phaseOf_of_eqAfterStart_le hfrom).trans (if_pos hto)

/-- Settles O43: with no equalizing lines, the regions meet at lines 240, 245 and 248. -/
theorem canonicalField : Obligations.CanonicalField := by
  intro c _
  have hactive : c ≤ 239 → phaseOf Config.canonical c = .activePicture := fun h =>
    phaseOf_eq_activePicture_iff.2 (Nat.lt_succ_of_le h)
  have hpost : 240 ≤ c → c ≤ 244 → phaseOf Config.canonical c = .blank := fun hfrom hto =>
    phaseOf_postRender hfrom (Nat.lt_succ_of_le hto)
  have hvsync : 245 ≤ c → c ≤ 247 → phaseOf Config.canonical c = .verticalSync := fun hfrom hto =>
    phaseOf_vsync hfrom (Nat.lt_succ_of_le hto)
  have hpre : 248 ≤ c → phaseOf Config.canonical c = .blank := fun hfrom => phaseOf_preRender hfrom
  refine ⟨hactive, hpost, hvsync, hpre, ?_⟩
  split_ifs with hsync
  · rw [hvsync hsync.1 hsync.2]; rfl
  · have hregion : c ≤ 239 ∨ (240 ≤ c ∧ c ≤ 244) ∨ 248 ≤ c := by omega
    rcases hregion with h | ⟨hfrom, hto⟩ | h
    · rw [hactive h]; rfl
    · rw [hpost hfrom hto]; rfl
    · rw [hpre h]; rfl

/-! ### TICK -/

/-- TICK of a line of the field starts that line (R125). -/
theorem tick_of_lt {s : State} (h : s.slc.toNat < s.cfg.lines) : tick s = .next (startLine s.slc.toNat s) := if_pos h

/-- A counter outside the field is the fault `SlcOutOfRange` (R128). -/
theorem tick_of_le {s : State} (h : s.cfg.lines ≤ s.slc.toNat) : tick s = .fault .slcOutOfRange :=
  if_neg (Nat.not_lt.2 h)

section
variable {s : State} (hline : s.level = .line)
include hline

/-- At the line level the timing controller has a TICK while the serializer is idle (R126). -/
theorem tickStep_idle (hidle : s.serBusy = false) : tickStep s = tick s := by
  simp only [tickStep, hline, hidle, if_true]

/-- While a line is emitted it has no step (R126). -/
theorem tickStep_busy (hbusy : s.serBusy = true) : tickStep s = .next s := by
  simp [tickStep, hline, hbusy]

end

/-- Settles O40: a busy serializer leaves the controller no step, and an idle one lets TICK see its counter. -/
theorem tickWaitsOrFaults : Obligations.TickWaitsOrFaults := by
  intro s ts hwf hline hturns
  have hstep : step s = tickStep { s with turns := ts } := step_turn hwf hturns
  refine ⟨fun hbusy => ?_, fun hidle hout => ?_⟩
  · rw [hstep, tickStep_busy (s := { s with turns := ts }) hline hbusy]
  · rw [hstep, tickStep_idle (s := { s with turns := ts }) hline hidle]
    exact tick_of_le hout

/-- Settles O39: the TICK of line `slc` (`startLine_eq`), which starts the serializer on the active lines alone. -/
theorem tickStartsTheNextLine : Obligations.TickStartsTheNextLine := by
  intro s ts hwf hline hidle hslc hturns
  have hstep : step s = .next (startLine s.slc.toNat { s with turns := ts }) := by
    rw [step_turn hwf hturns]
    exact (tickStep_idle (s := { s with turns := ts }) hline hidle).trans (tick_of_lt hslc)
  refine ⟨_, hstep, ?_, fun hactive => ?_⟩
  · rw [startLine_eq]
    simp only [hidle, Bool.false_or, phaseOf_eq_activePicture_iff, tickEvents]
  · rw [startLine_eq]
    simp only [phaseOf_eq_activePicture_iff, hactive, if_true, rowOf, and_self]

end Sys2Proof.Machine
end

section
/-! PROOFS. Every turn completes in a state that meets the invariant: no micro-op and no serializer read leaves the
framebuffer, and the line counter stays in the field (R60, R128, R290). -/

namespace Sys2Proof.Machine

/-! ### The serializer -/

/-- Every active line shows a row of the buffer (R7 item 3, R161). -/
theorem rowOf_lt_height {cfg : Cfg} {c : Nat} (hwf : cfg.wf) (h : c < cfg.active) : rowOf cfg c < cfg.height := by
  obtain ⟨⟨-, -, ⟨-, hactive⟩, -⟩, -⟩ := hwf
  exact Nat.div_lt_of_lt_mul (by rwa [Nat.mul_comm, ← hactive])

/-- A byte of the line in progress exists (R60, R163). -/
theorem BlockInv.serRead_inside {s : State} (hs : BlockInv s) (hbusy : s.serBusy = true)
    (hidx : s.serIdx < s.cfg.rowBytes) : s.serRow * s.cfg.rowBytes + s.serIdx < s.cfg.fbBytes := by
  obtain ⟨-, hphase, -⟩ := hs.timing
  obtain ⟨-, -, hser⟩ := hs.serial
  obtain ⟨hactive, hline, hrow, -⟩ := hser hbusy
  have hlt : s.serLine.toNat < s.cfg.active := by
    rw [hline, ← phaseOf_eq_activePicture_iff, ← hphase, hactive]
  rw [hrow]
  exact rowByte_lt (rowOf_lt_height hs.cfgOk hlt) hidx

theorem BlockInv.serReadByte_completes {s : State} (hs : BlockInv s) (hbusy : s.serBusy = true)
    (hidx : s.serIdx < s.cfg.rowBytes) : ∃ t, Machine.serReadByte s = .next t := by
  unfold Machine.serReadByte
  split
  · exact ⟨_, rfl⟩
  · exact ⟨_, atByte_inside (hs.serRead_inside hbusy hidx)⟩

theorem BlockInv.serialStep_completes {s : State} (hs : BlockInv s) : ∃ t, Machine.serialStep s = .next t := by
  unfold Machine.serialStep
  split_ifs with hbusy hidx
  · exact hs.serReadByte_completes hbusy hidx
  all_goals exact ⟨_, rfl⟩

theorem BlockInv.clockRead_completes {s : State} (hs : BlockInv s) : ∃ t, Machine.clockRead s = .next t := by
  unfold Machine.clockRead
  split_ifs with hdue
  · obtain ⟨hbusy, hidx, -⟩ := readDue_iff.1 hdue
    exact hs.serReadByte_completes hbusy hidx
  · exact ⟨_, rfl⟩

/-! ### The draw unit -/

theorem drawStep_completes {s : State} (hs : drawInv s) : ∃ t, drawStep s = .next t := by
  obtain ⟨-, -, hinside⟩ := hs
  unfold drawStep
  split
  · split
    · rename_i op rest hops
      obtain ⟨t, ht⟩ := performOp_inside (hinside op (by simp [hops]))
      exact ⟨leaveOps rest t, by rw [ht, andThen_next]⟩
    · exact ⟨_, rfl⟩
  · exact ⟨_, rfl⟩

theorem drawTurn_completes {s : State} (hs : drawInv s) : ∃ t, drawTurn s = .next t := by
  unfold drawTurn
  split
  · exact drawStep_completes hs
  · exact ⟨_, rfl⟩

/-- The micro-ops that a given `DRAW_TIMING` makes due are performed (R356). -/
theorem BlockInv.dueDraws_completes {s : State} (hs : BlockInv s) (hdraw : MayDraw s) (most n : Nat) :
    ∃ t, dueDraws most n s = .next t := by
  induction n generalizing s with
  | zero => exact ⟨s, rfl⟩
  | succ n ih =>
    unfold dueDraws
    split
    · obtain ⟨u, hu⟩ := drawStep_completes hs.draw
      rw [hu, andThen_next]
      exact ih (hs.drawStep hdraw hu) (drawStep_mayDraw hu hdraw)
    · exact ⟨s, rfl⟩

theorem BlockInv.clockDraw_completes {s : State} (hs : BlockInv s) (hdraw : MayDraw s) :
    ∃ t, Machine.clockDraw s = .next t := by
  unfold Machine.clockDraw
  split
  · exact ⟨_, rfl⟩
  · exact hs.dueDraws_completes hdraw _ _

/-- A `.command` turn: the command it accepts, if any, plans micro-ops inside the framebuffer (R190). -/
theorem commandTurn_completes (s : State) : ∃ t, commandTurn s = .next t := by
  unfold commandTurn
  split
  · rename_i a d rest _
    split
    · rename_i hcmd
      obtain ⟨-, hidle, -⟩ := hcmd
      have hbusy := takeWord_busy d { s with hostBus := rest }
      split <;> rename_i u _ htake
      · rw [htake] at hbusy
        rw [execCommand_idle (hbusy.trans hidle)]
        exact runOps_inside (planOf_inside _ u)
      · exact ⟨_, rfl⟩
    · exact ⟨_, rfl⟩
  · exact ⟨_, rfl⟩

/-! ### The timing controller and the clock -/

theorem BlockInv.tick_completes {s : State} (hs : BlockInv s) : ∃ t, tick s = .next t := by
  obtain ⟨hslc, -⟩ := hs.timing
  exact ⟨_, tick_of_lt hslc⟩

theorem BlockInv.cycleTick_completes {s : State} (hs : BlockInv s) : ∃ t, Machine.cycleTick s = .next t := by
  unfold Machine.cycleTick
  split
  · obtain ⟨u, hu⟩ := hs.tick_completes
    exact ⟨_, by rw [hu, andThen_next]⟩
  · exact ⟨_, rfl⟩

theorem BlockInv.tickStep_completes {s : State} (hs : BlockInv s) : ∃ t, Machine.tickStep s = .next t := by
  unfold Machine.tickStep
  split
  · split
    · exact hs.tick_completes
    · exact ⟨_, rfl⟩
  · exact hs.cycleTick_completes

theorem BlockInv.clockCycle_completes {s : State} (hs : BlockInv s) (hcycle : s.level = .cycle) :
    ∃ t, Machine.clockCycle s = .next t := by
  obtain ⟨a, ha⟩ := hs.cycleTick_completes
  have hinvA : BlockInv (driveOutputs a) := (hs.cycleTick hcycle ha).congr rfl
  obtain ⟨b, hb⟩ := hinvA.clockRead_completes
  have hticked : MayDraw a := cycleTick_mayDraw hs hcycle ha
  have hdrawB : MayDraw b := by rw [clockRead_frame hb]; exact hticked
  obtain ⟨c, hc⟩ := (hinvA.clockRead hb).clockFinish.clockDraw_completes (clockFinish_mayDraw hdrawB)
  exact ⟨_, by rw [Machine.clockCycle, ha, andThen_next, hb, andThen_next, hc, andThen_next]⟩

theorem BlockInv.cycleStep_completes {s : State} (hs : BlockInv s) : ∃ t, Machine.cycleStep s = .next t := by
  unfold Machine.cycleStep
  split
  · exact hs.clockCycle_completes ‹_›
  · exact ⟨_, rfl⟩

/-- No turn stops the machine (R290). -/
theorem BlockInv.takeTurn_completes {s : State} (hs : BlockInv s) (turn : Turn) :
    ∃ t, Machine.takeTurn turn s = .next t := by
  cases turn with
  | host => exact ⟨_, rfl⟩
  | command => exact commandTurn_completes s
  | draw => exact drawTurn_completes hs.draw
  | tick => exact hs.tickStep_completes
  | serial => exact hs.serialStep_completes
  | cycle => exact hs.cycleStep_completes
  | rst => exact ⟨_, rfl⟩

end Sys2Proof.Machine
end

section
/-! PROOFS. The line timer, the line counter and `sync_n` at the cycle level: no agent but the clock reaches them (R140 to
R142). -/

namespace Sys2Proof.Machine

/-! ### What the clock alone sets -/

/-- The part of the state that the clock and the timing controller alone set, with what no agent's turn sets. -/
structure ClockPart where
  cfg : Cfg
  level : Level
  turns : List Turn
  slc : BitVec 9
  phase : Phase
  lt : Nat
  tickStage : TickStage
  syncN : Bool

/-- The clock's part of a state. -/
def clockPart (s : State) : ClockPart :=
  { cfg := s.cfg, level := s.level, turns := s.turns, slc := s.slc, phase := s.phase, lt := s.lt,
    tickStage := s.tickStage, syncN := s.syncN }

theorem clockPart_hostStep (s : State) : clockPart (hostStep s) = clockPart s := by
  rw [hostStep_frame]; rfl

theorem clockPart_commandTurn {s t : State} (hcycle : s.level = .cycle) (h : commandTurn s = .next t) :
    clockPart t = clockPart s := by
  rcases commandTurn_cases h with rfl | ⟨hline, -⟩
  · exact clockPart_hostStep s
  · simp [hcycle] at hline

theorem clockPart_drawTurn {s t : State} (h : drawTurn s = .next t) : clockPart t = clockPart s := by
  rcases drawTurn_cases h with rfl | ⟨-, hstep⟩
  · rfl
  · rw [drawStep_frame hstep]; rfl

theorem clockPart_serialStep {s t : State} (h : serialStep s = .next t) : clockPart t = clockPart s := by
  rcases serialStep_cases h with rfl | ⟨-, -, hread⟩ | ⟨-, -, -, rfl⟩
  · rfl
  · rw [serReadByte_frame hread]; rfl
  · rfl

theorem clockPart_clockFinish (s : State) : clockPart (clockFinish s) = clockPart s := by
  rcases clockFinish_cases s with ⟨heq, -⟩ | heq <;> rw [heq]
  rfl

theorem clockPart_clockDraw {s t : State} (h : clockDraw s = .next t) : clockPart t = clockPart s := by
  obtain ⟨n, -, hsteps⟩ := clockDraw_steps h
  rw [drawSteps_frame hsteps]; rfl

theorem clockPart_advanceTimer {s t : State} (h : clockPart s = clockPart t) :
    clockPart (advanceTimer s) = clockPart (advanceTimer t) := by
  obtain ⟨hcfg, hlevel, hturns, hslc, hphase, hlt, -, hsync⟩ := ClockPart.mk.inj h
  simp only [clockPart, advanceTimer, hcfg, hlevel, hturns, hslc, hphase, hlt, hsync]

/-- The end of a cycle, for the clock: its TICK, the outputs and the line timer (R140). -/
theorem clockCycle_clockPart {s t : State} (h : clockCycle s = .next t) :
    ∃ a, cycleTick s = .next a ∧ clockPart t = clockPart (advanceTimer (driveOutputs a)) := by
  obtain ⟨a, b, c, ha, hb, hc, rfl⟩ := clockCycle_eq_next h
  refine ⟨a, ha, clockPart_advanceTimer ?_⟩
  calc clockPart (ageDraw c)
    _ = clockPart c := by rw [ageDraw_eq]; rfl
    _ = clockPart (clockFinish b) := clockPart_clockDraw hc
    _ = clockPart b := clockPart_clockFinish b
    _ = clockPart (driveOutputs a) := by rw [clockRead_frame hb]; rfl

/-! ### The state after a number of cycles -/

/-- The cycle in progress starts a line and has not had its TICK yet (R140). -/
def TickDue (s : State) : Prop := s.lt = 0 ∧ s.tickStage ≠ .ticked

/-- The block `n` cycles after reset, for the clock: the cycle in progress is cycle `n`, and the next line to start is the
one of that cycle while its TICK is due, else the one after it. -/
structure AtCycle (cfg : Cfg) (n : Nat) (s : State) : Prop where
  cfg_eq : s.cfg = cfg
  level_eq : s.level = .cycle
  timer : s.lt = n % cfg.lineCycles
  waiting : TickDue s → s.slc.toNat = n / cfg.lineCycles % cfg.lines
  started : ¬TickDue s → s.slc.toNat = (n / cfg.lineCycles + 1) % cfg.lines

section
variable {cfg : Cfg} {n : Nat} {s t : State}

theorem AtCycle.congr (hs : AtCycle cfg n s) (h : clockPart t = clockPart s) : AtCycle cfg n t := by
  obtain ⟨hcfg, hlevel, -, hslc, -, hlt, hstage, -⟩ := ClockPart.mk.inj h
  have hdue : TickDue t ↔ TickDue s := by simp only [TickDue, hlt, hstage]
  exact ⟨hcfg.trans hs.cfg_eq, hlevel.trans hs.level_eq, hlt.trans hs.timer,
    fun h => hslc ▸ hs.waiting (hdue.1 h), fun h => hslc ▸ hs.started (mt hdue.2 h)⟩

theorem AtCycle.setTurns (hs : AtCycle cfg n s) (ts : List Turn) : AtCycle cfg n { s with turns := ts } :=
  ⟨hs.cfg_eq, hs.level_eq, hs.timer, hs.waiting, hs.started⟩

theorem AtCycle.driveOutputs (hs : AtCycle cfg n s) : AtCycle cfg n (driveOutputs s) :=
  ⟨hs.cfg_eq, hs.level_eq, hs.timer, hs.waiting, hs.started⟩

/-- After the TICK of its line, or if it has none, a cycle's line is in progress (R125, R140). -/
theorem AtCycle.cycleTick (hwf : cfg.wf) (hs : AtCycle cfg n s) (h : cycleTick s = .next t) :
    AtCycle cfg n t ∧ ¬TickDue t ∧ t.turns = s.turns := by
  rcases cycleTick_eq_next h with ⟨hnone, rfl⟩ | ⟨hlt, hstage, -, rfl⟩
  · exact ⟨hs, hnone, rfl⟩
  · have hticked : ¬TickDue { startLine s.slc.toNat s with tickStage := .ticked } := fun h => h.2 rfl
    have hslc : (startLine s.slc.toNat s).slc.toNat = (n / cfg.lineCycles + 1) % cfg.lines := by
      rw [startLine_eq]
      show (BitVec.ofNat 9 ((s.slc.toNat + 1) % s.cfg.lines)).toNat = _
      rw [hs.cfg_eq, startLine_slc hwf, hs.waiting ⟨hlt, hstage⟩, Nat.mod_add_mod]
    refine ⟨⟨?_, ?_, ?_, fun h => absurd h hticked, fun _ => hslc⟩, hticked, ?_⟩ <;> rw [startLine_eq]
    · exact hs.cfg_eq
    · exact hs.level_eq
    · exact hs.timer

/-- The line counter at the start of the next cycle: a line's last cycle makes the next line's TICK due. -/
theorem AtCycle.advanceTimer (hwf : cfg.wf) (hs : AtCycle cfg n s) (hstarted : ¬TickDue s) :
    AtCycle cfg (n + 1) (advanceTimer s) := by
  have hslc := hs.started hstarted
  obtain ⟨-, -, hstart, -, hdeadline⟩ := wf_bounds hwf
  have hend := hStart_le_lineEnd cfg
  have hlt : (Machine.advanceTimer s).lt = (n + 1) % cfg.lineCycles := by
    rw [advanceTimer_lt, hs.cfg_eq, hs.timer, Nat.mod_add_mod]
  refine ⟨hs.cfg_eq, hs.level_eq, hlt, fun hdue => ?_, fun hdue => ?_⟩
  · have hlast : (n + 1) % cfg.lineCycles = 0 := hlt ▸ hdue.1
    rw [advanceTimer_slc, hslc, Nat.succ_div_of_mod_eq_zero hlast]
  · have hinner : (n + 1) % cfg.lineCycles ≠ 0 := fun hzero => hdue ⟨hlt.trans hzero, nofun⟩
    rw [advanceTimer_slc, hslc, Nat.succ_div_of_mod_ne_zero hinner]

/-- What the end of cycle `n` leaves: the clock's part of cycle `n + 1`, and the phase and `sync_n` of cycle `n`. -/
theorem AtCycle.clockCycle (hinv : BlockInv s) (hs : AtCycle cfg n s) (h : clockCycle s = .next t) :
    AtCycle cfg (n + 1) t ∧ t.turns = s.turns ∧ t.slc.toNat = (n / cfg.lineCycles + 1) % cfg.lines ∧
      t.phase = phaseOf cfg (n / cfg.lineCycles % cfg.lines) ∧ t.syncN = syncNAt cfg n := by
  have hwf : cfg.wf := hs.cfg_eq ▸ hinv.cfgOk
  obtain ⟨a, ha, hpart⟩ := clockCycle_clockPart h
  obtain ⟨hatA, hstarted, hturnsA⟩ := hs.cycleTick hwf ha
  have hslcA := hatA.started hstarted
  obtain ⟨-, hphaseA, hwidthA, -⟩ := (hinv.cycleTick hs.level_eq ha).timing
  have hlineA : currentLine a = n / cfg.lineCycles % cfg.lines := by
    obtain ⟨hpos, -⟩ := wf_bounds hwf
    rw [currentLine, hatA.cfg_eq, hslcA, ← Nat.mod_add_mod, previousLine_next (Nat.mod_lt _ hpos)]
  have hphase : a.phase = phaseOf cfg (n / cfg.lineCycles % cfg.lines) := by rw [hphaseA, hatA.cfg_eq, hlineA]
  have hsync : syncLevel a.cfg a.syncwCur a.lt = syncNAt cfg n := by
    rw [hwidthA, hphase, hatA.cfg_eq, hatA.timer, syncNAt]
  obtain ⟨-, -, hturns, hslc, hphaseT, -, -, hsyncT⟩ := ClockPart.mk.inj hpart
  exact ⟨(hatA.driveOutputs.advanceTimer hwf hstarted).congr hpart, hturns.trans hturnsA, hslc ▸ hslcA,
    hphaseT.trans hphase, hsyncT.trans hsync⟩

/-- Only a `.cycle` turn moves the clock on; no turn but reset sets it back. -/
theorem AtCycle.takeTurn {turn : Turn} (hinv : BlockInv s) (hs : AtCycle cfg n s) (hrst : turn ≠ .rst)
    (h : takeTurn turn s = .next t) : AtCycle cfg (n + [turn].count .cycle) t ∧ t.turns = s.turns := by
  have hkept : clockPart t = clockPart s → AtCycle cfg n t ∧ t.turns = s.turns := fun hpart =>
    ⟨hs.congr hpart, congrArg ClockPart.turns hpart⟩
  cases turn with
  | host => injection h with h; subst h; exact hkept (clockPart_hostStep s)
  | command => exact hkept (clockPart_commandTurn hs.level_eq h)
  | draw => exact hkept (clockPart_drawTurn h)
  | serial => exact hkept (clockPart_serialStep h)
  | tick =>
    rcases tickStep_cases h with ⟨hline, -⟩ | ⟨-, htick⟩
    · simp [hs.level_eq] at hline
    · obtain ⟨hat, -, hturns⟩ := hs.cycleTick (hs.cfg_eq ▸ hinv.cfgOk) htick
      exact ⟨hat, hturns⟩
  | cycle =>
    rcases cycleStep_cases h with ⟨hline, -⟩ | ⟨-, hclock⟩
    · simp [hs.level_eq] at hline
    · obtain ⟨hat, hturns, -⟩ := hs.clockCycle hinv hclock
      exact ⟨hat, hturns⟩
  | rst => exact absurd rfl hrst

/-- A run of listed turns without reset completes, and the clock counts its `.cycle` turns. -/
theorem AtCycle.run {ts rest : List Turn} (hinv : BlockInv s) (hs : AtCycle cfg n s) (hturns : s.turns = ts ++ rest)
    (hrst : .rst ∉ ts) : ∃ t, Host.Core.run Sys2Proof.core ts.length s = .next t ∧ BlockInv t ∧
      AtCycle cfg (n + ts.count .cycle) t ∧ t.turns = rest := by
  induction ts generalizing n s with
  | nil => exact ⟨s, rfl, hinv, hs, hturns⟩
  | cons turn ts ih =>
    have hinv' : BlockInv { s with turns := ts ++ rest } := hinv.congr rfl
    obtain ⟨u, hu⟩ := hinv'.takeTurn_completes turn
    have hturn : turn ≠ .rst := fun h => hrst (h ▸ List.mem_cons_self ..)
    obtain ⟨hat, hrest⟩ := (hs.setTurns (ts ++ rest)).takeTurn hinv' hturn hu
    obtain ⟨t, hrun, hinvT, hatT, hturnsT⟩ :=
      ih (hinv'.takeTurn hu) hat hrest fun h => hrst (List.mem_cons_of_mem _ h)
    refine ⟨t, ?_, hinvT, ?_, hturnsT⟩
    · rw [List.length_cons, run_succ ((step_turn hinv.cfgOk hturns).trans hu), hrun]
    · rwa [← List.singleton_append, List.count_append, ← Nat.add_assoc]

end

/-! ### A run from reset -/

/-- The block after reset at the cycle level, with the host's accesses and the turns to come. -/
def cycleReset (cfg : Cfg) (bus : List HostAccess) (ts : List Turn) : State :=
  { State.afterReset cfg with level := .cycle, hostBus := bus, turns := ts }

theorem blockInv_cycleReset {cfg : Cfg} (hwf : cfg.wf) (bus : List HostAccess) (ts : List Turn) :
    BlockInv (cycleReset cfg bus ts) :=
  blockInv_resetBlock (s := cycleReset cfg bus ts) hwf

theorem atCycle_cycleReset (cfg : Cfg) (bus : List HostAccess) (ts : List Turn) :
    AtCycle cfg 0 (cycleReset cfg bus ts) where
  cfg_eq := rfl
  level_eq := rfl
  timer := (Nat.zero_mod _).symm
  waiting _ := by simp [cycleReset, State.afterReset]
  started h := absurd ⟨rfl, nofun⟩ h

/-- R142's waveform: `sync_n` is low in a line's first cycles, as many as the line's width class gives. -/
theorem syncNAt_eq_false_iff {cfg : Cfg} {n : Nat} :
    syncNAt cfg n = false ↔
      n % cfg.lineCycles < syncCycles cfg (widthCode (phaseOf cfg (n / cfg.lineCycles % cfg.lines))) := by
  rw [syncNAt, syncLevel, decide_eq_false_iff_not, Nat.not_le]

/-- Settles O46: the listed turns bring the clock to cycle `n` (`AtCycle.run`), and the last turn ends that cycle
(`AtCycle.clockCycle`). -/
theorem syncFollowsTheClockAlone : Obligations.SyncFollowsTheClockAlone := by
  intro cfg bus ts n hwf hrst hcount
  obtain ⟨s, hrun, hinv, hat, hlast⟩ :=
    (atCycle_cycleReset cfg bus (ts ++ [.cycle])).run (blockInv_cycleReset hwf bus _) rfl hrst
  rw [Nat.zero_add, hcount] at hat
  have hinv' : BlockInv { s with turns := [] } := hinv.congr rfl
  obtain ⟨t, ht⟩ := hinv'.clockCycle_completes hat.level_eq
  obtain ⟨hatT, -, hslc, hphase, hsync⟩ := (hat.setTurns []).clockCycle hinv' ht
  have hstep : step s = .next t := by
    rw [step_turn hinv.cfgOk hlast]
    exact (if_pos hat.level_eq).trans ht
  refine ⟨t, (run_add hrun 1).trans (run_succ hstep 0), hatT.timer, hslc, hphase, hsync, ?_⟩
  rw [hsync, syncNAt_eq_false_iff]
  cases phaseOf cfg (n / cfg.lineCycles % cfg.lines) <;> rfl

end Sys2Proof.Machine
end

section
/-! PROOFS. The line serializer: the row of each active line (R161, R162) and the record a line emits (R165 to R168). -/

namespace Sys2Proof.Machine

/-- Settles O44: the lines of row `r` are those whose quotient by `K` is `r`, and `A = H * K` bounds the rows. -/
theorem rowsRepeatKTimes : Obligations.RowsRepeatKTimes := by
  intro cfg hwf
  have hrepeat : 0 < cfg.lineRepeat := by
    obtain ⟨⟨-, -, ⟨hpos, -⟩, -⟩, -⟩ := hwf
    exact hpos
  exact ⟨fun c hc => rowOf_lt_height hwf hc, fun r _ c => Nat.div_eq_iff hrepeat⟩

/-! ### The bytes of a line -/

/-- `row` is what a line of row `r` sends before its pad byte: zeros on a dark line, else the row's written bytes (R165,
R167). -/
structure RowBytes (row : List Byte) (dark : Bool) (r : Nat) (s : State) : Prop where
  length : row.length = s.cfg.rowBytes
  zeros : dark = true → row = List.replicate s.cfg.rowBytes 0
  written : dark = false → ∀ k < s.cfg.rowBytes, s.mem.lookup (r * s.cfg.rowBytes + k) = row[k]?

/-- The line in progress sends `row`: that is what its reads find, and what its reads so far have put into `ser_buf`. -/
structure LineShows (row : List Byte) (s : State) : Prop where
  source : RowBytes row s.serBlank s.serRow s
  read : ∀ i < s.serIdx, s.serBuf[i]? = row[i]?

section
variable {row : List Byte} {s t : State}

/-- Which bytes a line sends depends on the configuration and the framebuffer alone. -/
theorem RowBytes.congr {dark : Bool} {r : Nat} (h : RowBytes row dark r s) (hcfg : t.cfg = s.cfg)
    (hmem : t.mem = s.mem) : RowBytes row dark r t := by
  obtain ⟨hlen, hzeros, hwritten⟩ := h
  constructor <;> rw [hcfg]
  · exact hlen
  · exact hzeros
  · rw [hmem]; exact hwritten

theorem LineShows.setTurns (hrow : LineShows row s) (ts : List Turn) : LineShows row { s with turns := ts } :=
  ⟨hrow.source.congr rfl rfl, hrow.read⟩

/-- The next read of the line gives the row's next byte (R165). -/
theorem LineShows.serReadByte (hrow : LineShows row s) (hs : BlockInv s) (hbusy : s.serBusy = true)
    (hidx : s.serIdx < s.cfg.rowBytes) :
    ∃ b, row[s.serIdx]? = some b ∧ Machine.serReadByte s = .next (pushLineByte b s) := by
  obtain ⟨hlen, hzeros, hwritten⟩ := hrow.source
  cases hdark : s.serBlank with
  | true =>
    refine ⟨0, ?_, ?_⟩
    · rw [hzeros hdark, List.getElem?_replicate, if_pos hidx]
    · rw [Machine.serReadByte, if_pos hdark]
  | false =>
    have hb : row[s.serIdx]? = some row[s.serIdx] := List.getElem?_eq_getElem (hlen ▸ hidx)
    refine ⟨_, hb, ?_⟩
    rw [Machine.serReadByte, hdark, if_neg Bool.false_ne_true]
    exact (atByte_inside (hs.serRead_inside hbusy hidx)).trans
      (by rw [readByte_of_lookup ((hwritten hdark _ hidx).trans hb)])

/-- That byte in its place, one byte more of the row is read. -/
theorem LineShows.pushLineByte (hrow : LineShows row s) (hs : BlockInv s) (hidx : s.serIdx < s.cfg.rowBytes) {b : Byte}
    (hb : row[s.serIdx]? = some b) : LineShows row (pushLineByte b s) := by
  obtain ⟨hlen, -⟩ := hs.serial
  refine ⟨hrow.source.congr rfl rfl, fun i hi => ?_⟩
  rw [pushLineByte_serBuf, List.getElem?_set]
  split_ifs with heq hplace
  · rw [← heq, hb]
  · omega
  · have hi' : i < s.serIdx + 1 := hi
    exact hrow.read i (by omega)

/-- With every byte read, `ser_buf` holds the row and the pad byte. -/
theorem LineShows.serBuf_eq (hrow : LineShows row s) (hs : BlockInv s) (hall : s.serIdx = s.cfg.rowBytes) :
    s.serBuf = row ++ [0] := by
  obtain ⟨hbuf, hpad, -⟩ := hs.serial
  have hlen := hrow.source.length
  rw [List.getLast?_eq_getElem?, hbuf, Nat.add_sub_cancel] at hpad
  refine List.ext_getElem? fun i => ?_
  rcases Nat.lt_trichotomy i s.cfg.rowBytes with hlt | rfl | hgt
  · rw [List.getElem?_append_left (by omega), hrow.read i (by omega)]
  · rw [hpad, ← hlen, List.getElem?_concat_length]
  · rw [List.getElem?_eq_none (by omega), List.getElem?_eq_none (by simp; omega)]

/-- The end of a line whose bytes are all read (R166, R168). -/
theorem LineShows.serFinish_eq (hrow : LineShows row s) (hs : BlockInv s) (hall : s.serIdx = s.cfg.rowBytes) :
    serFinish s = { s with
      serBuf := row ++ [0]
      serBusy := false
      emitted := s.emitted ++ [{ line := s.serLine, bytes := row ++ [0] }] } := by
  have hlen := hrow.source.length
  have hpad : s.serBuf.set s.cfg.rowBytes 0 = row ++ [0] := by
    rw [hrow.serBuf_eq hs hall, ← hlen, List.set_append_right _ _ (Nat.le_refl _), Nat.sub_self, List.set_cons_zero]
  have hwhole : (row ++ [0]).take (s.cfg.rowBytes + 1) = row ++ [0] := List.take_of_length_le (by simp [hlen])
  simp only [serFinish, hpad, hwhole]

/-- At either level a `.serial` turn reads the next byte (R165, R177). -/
theorem LineShows.step_read {ts : List Turn} (hrow : LineShows row s) (hs : BlockInv s) (hbusy : s.serBusy = true)
    (hidx : s.serIdx < s.cfg.rowBytes) (hturns : s.turns = .serial :: ts) :
    ∃ b, row[s.serIdx]? = some b ∧ step s = .next (Machine.pushLineByte b { s with turns := ts }) := by
  have hs' : BlockInv { s with turns := ts } := hs.congr rfl
  obtain ⟨b, hb, hread⟩ := (hrow.setTurns ts).serReadByte hs' hbusy hidx
  refine ⟨b, hb, ?_⟩
  rw [step_turn hs.cfgOk hturns, takeTurn, serialStep, if_pos hbusy, if_pos hidx, hread]

/-- At the line level the `.serial` turn after the last byte ends the line (R166). -/
theorem step_serFinish {ts : List Turn} (hs : BlockInv s) (hline : s.level = .line) (hbusy : s.serBusy = true)
    (hall : s.serIdx = s.cfg.rowBytes) (hturns : s.turns = .serial :: ts) :
    step s = .next (serFinish { s with turns := ts }) := by
  rw [step_turn hs.cfgOk hturns, takeTurn, serialStep, if_pos hbusy, if_neg (Nat.not_lt.2 hall.ge),
    if_pos ⟨hall, hline⟩]

/-- A line at the line level whose serializer alone moves: its remaining bytes, then its record (R165, R166). -/
theorem LineShows.run {n : Nat} {ts : List Turn} (hrow : LineShows row s) (hs : BlockInv s) (hline : s.level = .line)
    (hbusy : s.serBusy = true) (hleft : s.serIdx + n = s.cfg.rowBytes)
    (hturns : s.turns = List.replicate (n + 1) .serial ++ ts) :
    Host.Core.run Sys2Proof.core (n + 1) s = .next { s with
      turns := ts
      serBusy := false
      serIdx := s.cfg.rowBytes
      serBuf := row ++ [0]
      emitted := s.emitted ++ [{ line := s.serLine, bytes := row ++ [0] }] } := by
  induction n generalizing s with
  | zero =>
    have hall : s.serIdx = s.cfg.rowBytes := hleft
    have hlast : s.turns = .serial :: ts := hturns
    rw [run_succ (step_serFinish hs hline hbusy hall hlast), run_zero,
      (hrow.setTurns ts).serFinish_eq (hs.congr rfl) hall, ← hall]
  | succ n ih =>
    have hidx : s.serIdx < s.cfg.rowBytes := by omega
    obtain ⟨b, hb, hstep⟩ := hrow.step_read hs hbusy hidx hturns
    have hrest := hrow.setTurns (List.replicate (n + 1) .serial ++ ts)
    have hs' : BlockInv { s with turns := List.replicate (n + 1) .serial ++ ts } := hs.congr rfl
    have hleft' : s.serIdx + 1 + n = s.cfg.rowBytes := by omega
    rw [run_succ hstep]
    exact ih (hrest.pushLineByte hs' hidx hb) (hs'.pushLineByte hidx b) hline hbusy hleft' rfl

end

/-- Settles O45: `L` reads and the finish, from a line of which no byte is read yet (`LineShows.run`). -/
theorem lineRecordIsItsRow : Obligations.LineRecordIsItsRow := by
  intro s row ts hs hline hbusy hfirst hlen hzeros hwritten hturns
  have hrow : LineShows row s := ⟨⟨hlen, hzeros, hwritten⟩, fun i hi => absurd hi (by omega)⟩
  exact hrow.run hs hline hbusy (by omega) hturns

end Sys2Proof.Machine
end

section
/-! PROOFS. The line serializer at the cycle level (R175 to R179): `video`, and the record at the end of the last bit. -/

namespace Sys2Proof.Machine

/-! ### `video` in one cycle -/

/-- What a `.cycle` turn shows (R175, R176): `video` of the line in progress after the cycle's TICK. -/
theorem clockCycle_video {s t : State} (h : clockCycle s = .next t) :
    ∃ a, cycleTick s = .next a ∧ t.phase = a.phase ∧ t.video = videoLevel a.cfg a.phase a.serBuf a.lt := by
  obtain ⟨a, b, c, ha, hb, hc, rfl⟩ := clockCycle_eq_next h
  obtain ⟨n, -, hsteps⟩ := clockDraw_steps hc
  have hfinish : (clockFinish b).phase = b.phase ∧ (clockFinish b).video = b.video := by
    rcases clockFinish_cases b with ⟨heq, -⟩ | heq <;> rw [heq] <;> exact ⟨rfl, rfl⟩
  refine ⟨a, ha, ?_, ?_⟩ <;>
    rw [ageDraw_eq, drawSteps_frame hsteps]
  · exact hfinish.1.trans (by rw [clockRead_frame hb]; rfl)
  · exact hfinish.2.trans (by rw [clockRead_frame hb]; rfl)

/-- The TICK of a cycle changes neither the configuration nor the line timer (R125, R140). -/
theorem cycleTick_cfg_lt {s t : State} (h : cycleTick s = .next t) : t.cfg = s.cfg ∧ t.lt = s.lt := by
  rcases cycleTick_eq_next h with ⟨-, rfl⟩ | ⟨-, -, -, rfl⟩
  · exact ⟨rfl, rfl⟩
  · rw [startLine_eq]; exact ⟨rfl, rfl⟩

/-- Off active lines, before the first bit and after the last one `video` is at its idle level (R175). -/
theorem videoLevel_idle {cfg : Cfg} {p : Phase} {u : Nat}
    (h : p ≠ .activePicture ∨ u < cfg.hStart ∨ cfg.lineEnd ≤ u) (bytes : List Byte) :
    videoLevel cfg p bytes u = false := by
  have hidle : ¬(p = .activePicture ∧ cfg.hStart ≤ u ∧ u < cfg.lineEnd) := by
    rintro ⟨hactive, hfrom, hto⟩
    rcases h with h | h | h
    · exact h hactive
    all_goals omega
  rw [videoLevel, decide_eq_false hidle, Bool.false_and]

/-- Settles O49: what a `.cycle` turn shows (`clockCycle_video`) is idle there (`videoLevel_idle`). -/
theorem videoIsIdleOffTheLine : Obligations.VideoIsIdleOffTheLine := by
  intro s t ts hwf hcycle hturns hstep hoff
  rw [step_turn hwf hturns] at hstep
  have hclock : clockCycle { s with turns := ts } = .next t := (if_pos hcycle).symm.trans hstep
  obtain ⟨a, ha, hphase, hvideo⟩ := clockCycle_video hclock
  obtain ⟨hcfg, hlt⟩ := cycleTick_cfg_lt ha
  rw [hvideo]
  refine videoLevel_idle ?_ _
  rw [hcfg, hlt, ← hphase]
  exact hoff

/-- A dark line sends 0 bits alone (R167). -/
theorem streamBit_zeros (n j : Nat) : streamBit (List.replicate n 0 ++ [0]) j = false := by
  have hbyte : (List.replicate n (0 : Byte) ++ [0]).getD (j / 8) 0 = 0 := by
    rw [← List.replicate_succ', List.getD_eq_getElem?_getD, List.getElem?_replicate]
    split_ifs <;> rfl
  rw [streamBit, hbyte]
  exact BitVec.getLsbD_zero

/-! ### The serializer between two cycles -/

/-- The serializer of line `line`, which sends `row`, when `n` cycles of the line have ended: busy until its last bit ends,
then idle with the line's record emitted after the records of `before` (R168, R179). -/
structure Emitting (line : BitVec 9) (row : List Byte) (before : List LineRecord) (n : Nat) (s : State) : Prop where
  sending : n < s.cfg.lineEnd → s.serBusy = true ∧ s.serLine = line ∧ s.emitted = before ∧ LineShows row s
  sent : s.cfg.lineEnd ≤ n → s.serBusy = false ∧ s.emitted = before ++ [{ line := line, bytes := row ++ [0] }]

section
variable {line : BitVec 9} {row : List Byte} {before : List LineRecord} {n : Nat} {s t : State}

theorem Emitting.of_busy (h : Emitting line row before n s) (hbusy : s.serBusy = true) :
    n < s.cfg.lineEnd ∧ s.serLine = line ∧ s.emitted = before ∧ LineShows row s := by
  rcases Nat.lt_or_ge n s.cfg.lineEnd with hlt | hge
  · exact ⟨hlt, (h.sending hlt).2⟩
  · simp [(h.sent hge).1] at hbusy

theorem Emitting.serReadByte (h : Emitting line row before n s) (hs : BlockInv s) (hbusy : s.serBusy = true)
    (hidx : s.serIdx < s.cfg.rowBytes) (hread : serReadByte s = .next t) : Emitting line row before n t := by
  obtain ⟨hlt, hline, hbefore, hrow⟩ := h.of_busy hbusy
  obtain ⟨b, hb, hpush⟩ := hrow.serReadByte hs hbusy hidx
  obtain rfl := Host.Outcome.next.inj (hpush.symm.trans hread)
  exact ⟨fun _ => ⟨hbusy, hline, hbefore, hrow.pushLineByte hs hidx hb⟩, fun hge => absurd hlt (Nat.not_lt.2 hge)⟩

theorem Emitting.clockRead (h : Emitting line row before n s) (hs : BlockInv s) (hread : clockRead s = .next t) :
    Emitting line row before n t := by
  rcases clockRead_cases hread with ⟨-, rfl⟩ | ⟨hdue, hread⟩
  · exact h
  · obtain ⟨hbusy, hidx, -⟩ := readDue_iff.1 hdue
    exact h.serReadByte hs hbusy hidx hread

/-- With every due byte read, a line whose last cycle ends has no byte left to read (R177, R179). -/
theorem BlockInv.serIdx_of_lineEnd (hs : BlockInv s) (hbusy : s.serBusy = true) (hread : NoReadDue s)
    (hend : s.lt + 1 = s.cfg.lineEnd) : s.serIdx = s.cfg.rowBytes := by
  obtain ⟨-, -, hline⟩ := hs.serial
  obtain ⟨-, -, -, hle⟩ := hline hbusy
  rcases Nat.lt_or_eq_of_le hle with hlt | hall
  · have hdue := hread hbusy hlt
    have hbytes : 8 * s.serIdx ≤ 8 * (s.cfg.rowBytes + 1) := by omega
    have hwindow : s.cfg.hStart + 8 * s.serIdx * s.cfg.bitCycles ≤ s.cfg.lineEnd :=
      Nat.add_le_add_left (Nat.mul_le_mul_right _ hbytes) _
    omega
  · exact hall

theorem clockFinish_lineEnd (hbusy : s.serBusy = true) (hall : s.serIdx = s.cfg.rowBytes)
    (hend : s.lt + 1 = s.cfg.lineEnd) : clockFinish s = serFinish s := by
  rw [clockFinish, hbusy, decide_eq_true ⟨hall, hend⟩]; rfl

theorem clockFinish_inside (h : s.lt + 1 ≠ s.cfg.lineEnd) : clockFinish s = s := by
  rw [clockFinish, decide_eq_false fun hend => h hend.2, Bool.and_false]; rfl

/-- The serializer's part of the end of the cycle at offset `lt`: one cycle of the line more has ended (R179). -/
theorem Emitting.clockFinish (h : Emitting line row before s.lt s) (hs : BlockInv s) (hread : NoReadDue s) :
    Emitting line row before (s.lt + 1) (clockFinish s) := by
  by_cases hend : s.lt + 1 = s.cfg.lineEnd
  · obtain ⟨hbusy, hline, hbefore, hrow⟩ := h.sending (by omega)
    have hall := hs.serIdx_of_lineEnd hbusy hread hend
    rw [clockFinish_lineEnd hbusy hall hend, hrow.serFinish_eq hs hall, hline, hbefore]
    exact ⟨fun hlt => absurd hend (Nat.ne_of_lt hlt), fun _ => ⟨rfl, rfl⟩⟩
  · rw [clockFinish_inside hend]
    exact ⟨fun hlt => h.sending (by omega), fun hge => h.sent (by omega)⟩

/-- Every byte of the stream stands in `ser_buf` before its first bit goes out (R177), so `video` is the row's bit
(R176). -/
theorem Emitting.videoLevel_eq (h : Emitting line row before s.lt s) (hs : BlockInv s) (hcycle : s.level = .cycle)
    (p : Phase) : videoLevel s.cfg p s.serBuf s.lt = videoLevel s.cfg p (row ++ [0]) s.lt := by
  by_cases hwindow : s.cfg.hStart ≤ s.lt ∧ s.lt < s.cfg.lineEnd
  · obtain ⟨hfrom, hto⟩ := hwindow
    obtain ⟨hbusy, -, -, hrow⟩ := h.sending hto
    obtain ⟨-, -, hline⟩ := hs.serial
    obtain ⟨-, -, -, hle⟩ := hline hbusy
    rcases Nat.lt_or_eq_of_le hle with hlt | hall
    · obtain ⟨-, -, hdeadlines⟩ := hs.clock
      obtain ⟨-, -, hdeadline⟩ := hdeadlines hcycle hbusy
      have hdue := hdeadline hlt
      obtain ⟨-, -, -, hbit, -⟩ := wf_bounds hs.cfgOk
      have hread : (s.lt - s.cfg.hStart) / s.cfg.bitCycles / 8 < s.serIdx := by
        have hbits : (s.lt - s.cfg.hStart) / s.cfg.bitCycles < 8 * s.serIdx :=
          (Nat.div_lt_iff_lt_mul hbit).2 (by omega)
        omega
      have hlen := hrow.source.length
      have hbyte : s.serBuf.getD ((s.lt - s.cfg.hStart) / s.cfg.bitCycles / 8) 0 =
          (row ++ [0]).getD ((s.lt - s.cfg.hStart) / s.cfg.bitCycles / 8) 0 := by
        rw [List.getD_eq_getElem?_getD, List.getD_eq_getElem?_getD, hrow.read _ hread,
          List.getElem?_append_left (by omega)]
      rw [videoLevel, videoLevel, streamBit, streamBit, hbyte]
    · rw [hrow.serBuf_eq hs hall]
  · rw [videoLevel_idle (by omega), videoLevel_idle (by omega)]

/-! ### The cycles of a line -/

/-- An active line on which nothing is drawn, after its TICK. -/
structure LineRuns (line : BitVec 9) (row : List Byte) (before : List LineRecord) (s : State) : Prop where
  idle : s.busy = false
  active : s.phase = .activePicture
  started : ¬TickDue s
  emitting : Emitting line row before s.lt s

/-- The same line before its TICK, in the first of its cycles. -/
structure LineWaits (line : BitVec 9) (row : List Byte) (before : List LineRecord) (s : State) : Prop where
  idle : s.busy = false
  active : s.slc.toNat < s.cfg.active
  due : TickDue s
  line_eq : s.slc = line
  source : RowBytes row (!s.init) (rowOf s.cfg s.slc.toNat) s
  emitted : s.emitted = before

/-- Such a line in one of its cycles. -/
def OnLine (line : BitVec 9) (row : List Byte) (before : List LineRecord) (s : State) : Prop :=
  LineWaits line row before s ∨ LineRuns line row before s

theorem Emitting.congr (h : Emitting line row before n s) (ht : t = { s with
    turns := t.turns, lt := t.lt, tickStage := t.tickStage, syncN := t.syncN, video := t.video }) :
    Emitting line row before n t := by
  rw [ht]
  refine ⟨fun hlt => ?_, h.sent⟩
  obtain ⟨hbusy, hline, hbefore, hsource, hread⟩ := h.sending hlt
  exact ⟨hbusy, hline, hbefore, hsource.congr rfl rfl, hread⟩

theorem OnLine.setTurns (h : OnLine line row before s) (ts : List Turn) :
    OnLine line row before { s with turns := ts } := by
  rcases h with h | h
  · exact .inl ⟨h.idle, h.active, h.due, h.line_eq, h.source.congr rfl rfl, h.emitted⟩
  · exact .inr ⟨h.idle, h.active, h.started, h.emitting.congr rfl⟩

/-- The TICK starts the serializer on the line (R163). -/
theorem OnLine.cycleTick (h : OnLine line row before s) (hs : BlockInv s) (htick : cycleTick s = .next t) :
    LineRuns line row before t := by
  rcases cycleTick_eq_next htick with ⟨hnone, rfl⟩ | ⟨hlt, hstage, -, rfl⟩
  · exact h.resolve_left fun hwaits => hnone hwaits.due
  · have hwaits := h.resolve_right fun hruns => hruns.started ⟨hlt, hstage⟩
    obtain ⟨-, -, hstart, -⟩ := wf_bounds hs.cfgOk
    have hend := hStart_le_lineEnd s.cfg
    have hactive : phaseOf s.cfg s.slc.toNat = .activePicture := phaseOf_eq_activePicture_iff.2 hwaits.active
    rw [startLine_eq]
    simp only [hactive, if_true]
    have hinside : ¬s.cfg.lineEnd ≤ s.lt := by omega
    exact ⟨hwaits.idle, rfl, fun hdue => hdue.2 rfl,
      fun _ => ⟨by simp, hwaits.line_eq, hwaits.emitted, hwaits.source.congr rfl rfl, nofun⟩,
      fun hge => absurd hge hinside⟩

/-- A `.serial` turn of the cycle level: nothing, or the next byte's read (R179). -/
theorem serialStep_cycle (hcycle : s.level = .cycle) (h : serialStep s = .next t) :
    t = s ∨ (s.serBusy = true ∧ s.serIdx < s.cfg.rowBytes ∧ serReadByte s = .next t) := by
  rcases serialStep_cases h with rfl | hread | ⟨-, -, hline, -⟩
  · exact .inl rfl
  · exact .inr hread
  · simp [hcycle] at hline

/-- Before the TICK of a line the serializer is idle (R140, R179). -/
theorem BlockInv.serBusy_of_tickDue (hs : BlockInv s) (hcycle : s.level = .cycle) (hdue : TickDue s) :
    s.serBusy = false := by
  obtain ⟨-, -, hdeadlines⟩ := hs.clock
  cases hbusy : s.serBusy with
  | false => rfl
  | true => exact absurd ((hdeadlines hcycle hbusy).1 hdue.1) hdue.2

theorem OnLine.serialStep (h : OnLine line row before s) (hs : BlockInv s) (hcycle : s.level = .cycle)
    (hserial : serialStep s = .next t) : OnLine line row before t := by
  rcases serialStep_cycle hcycle hserial with rfl | ⟨hbusy, hidx, hread⟩
  · exact h
  · have hruns := h.resolve_left fun hwaits => by simp [hs.serBusy_of_tickDue hcycle hwaits.due] at hbusy
    have hemit := hruns.emitting.serReadByte hs hbusy hidx hread
    rw [serReadByte_frame hread] at hemit ⊢
    exact .inr ⟨hruns.idle, hruns.active, hruns.started, hemit⟩

theorem clockDraw_idle (h : s.busy = false) : clockDraw s = .next s := by
  unfold clockDraw
  split
  · rfl
  · cases s.ops.length <;> simp [dueDraws, h]

theorem ageDraw_idle (h : s.busy = false) : ageDraw s = s := by simp [ageDraw, h]

theorem clockFinish_busy (s : State) : (clockFinish s).busy = s.busy := by
  rcases clockFinish_cases s with ⟨heq, -⟩ | heq <;> rw [heq]
  rfl

/-- The end of a cycle on which nothing is drawn: its TICK, then the outputs and the serializer's part. -/
theorem clockCycle_idle (hidle : s.busy = false) (h : clockCycle s = .next t) :
    ∃ a b, cycleTick s = .next a ∧ clockRead (driveOutputs a) = .next b ∧ t = advanceTimer (clockFinish b) := by
  obtain ⟨a, b, c, ha, hb, hc, rfl⟩ := clockCycle_eq_next h
  have hidleA : a.busy = false := by
    rcases cycleTick_eq_next ha with ⟨-, rfl⟩ | ⟨-, -, -, rfl⟩
    · exact hidle
    · rw [startLine_eq]; exact hidle
  have hidleB : (clockFinish b).busy = false := by
    rw [clockFinish_busy, clockRead_frame hb]; exact hidleA
  rw [clockDraw_idle hidleB] at hc
  obtain rfl := Host.Outcome.next.inj hc
  exact ⟨a, b, ha, hb, by rw [ageDraw_idle hidleB]⟩

/-- The end of a cycle of the line: `video` shows the row, the serializer is a cycle further, and unless the cycle is the
line's last the next one is of the same line. -/
theorem OnLine.clockCycle (h : OnLine line row before s) (hs : BlockInv s) (hcycle : s.level = .cycle)
    (hclock : clockCycle s = .next t) :
    t.video = videoLevel s.cfg .activePicture (row ++ [0]) s.lt ∧ Emitting line row before (s.lt + 1) t ∧
      (s.lt + 1 < s.cfg.lineCycles → OnLine line row before t ∧ t.lt = s.lt + 1) := by
  have hidle : s.busy = false := h.elim LineWaits.idle LineRuns.idle
  obtain ⟨a, b, ha, hb, rfl⟩ := clockCycle_idle hidle hclock
  obtain ⟨a', ha', hphase, hvideo⟩ := clockCycle_video hclock
  obtain rfl := Host.Outcome.next.inj (ha.symm.trans ha')
  obtain ⟨hcfg, hlt⟩ := cycleTick_cfg_lt ha
  have hruns := h.cycleTick hs ha
  have hlevelA : a.level = .cycle := (cycleTick_level ha).trans hcycle
  have hsA : BlockInv (driveOutputs a) := (hs.cycleTick hcycle ha).congr rfl
  have hframe := clockRead_frame hb
  have hemitB : Emitting line row before b.lt b := by
    rw [show b.lt = a.lt by rw [hframe]; rfl]
    exact (hruns.emitting.congr (t := driveOutputs a) rfl).clockRead hsA hb
  have hltB : b.lt = s.lt := by rw [hframe]; exact hlt
  have hemit := (hemitB.clockFinish (hsA.clockRead hb) (clockRead_noReadDue hsA hlevelA hb)).congr
    (t := advanceTimer (Machine.clockFinish b)) rfl
  rw [hltB] at hemit
  refine ⟨?_, hemit, fun hin => ?_⟩
  · rw [hvideo, hruns.emitting.videoLevel_eq (hs.cycleTick hcycle ha) hlevelA, hruns.active, hcfg, hlt]
  · obtain ⟨hcfgF, -, -, -, -, hltF, -⟩ := ClockPart.mk.inj (clockPart_clockFinish b)
    have hcfgB : b.cfg = s.cfg := by rw [hframe]; exact hcfg
    have hnext : (advanceTimer (Machine.clockFinish b)).lt = s.lt + 1 := by
      rw [advanceTimer_lt, hltF, hcfgF, hltB, hcfgB, Nat.mod_eq_of_lt hin]
    refine ⟨.inr ⟨?_, hphase.trans hruns.active, fun hdue => ?_, hnext ▸ hemit⟩, hnext⟩
    · rw [advanceTimer_busy, clockFinish_busy, hframe]; exact hruns.idle
    · have := hdue.1
      omega

/-- A TICK or a byte's read changes neither the timer nor what the block has shown and emitted. -/
theorem quietTurn_frame {turn : Turn} (hquiet : turn = .serial ∨ turn = .tick) (hcycle : s.level = .cycle)
    (h : takeTurn turn s = .next t) :
    t.cfg = s.cfg ∧ t.lt = s.lt ∧ t.video = s.video ∧ t.emitted = s.emitted := by
  rcases hquiet with rfl | rfl
  · rcases serialStep_cycle hcycle h with rfl | ⟨-, -, hread⟩
    · exact ⟨rfl, rfl, rfl, rfl⟩
    · rw [serReadByte_frame hread]; exact ⟨rfl, rfl, rfl, rfl⟩
  · rcases tickStep_cases h with ⟨hline, -⟩ | ⟨-, htick⟩
    · simp [hcycle] at hline
    · rcases cycleTick_eq_next htick with ⟨-, rfl⟩ | ⟨-, -, -, rfl⟩
      · exact ⟨rfl, rfl, rfl, rfl⟩
      · rw [startLine_eq]; exact ⟨rfl, rfl, rfl, rfl⟩

/-- Neither takes the block off its line. -/
theorem OnLine.quietTurn {turn : Turn} (h : OnLine line row before s) (hs : BlockInv s) (hcycle : s.level = .cycle)
    (hquiet : turn = .serial ∨ turn = .tick) (hturn : takeTurn turn s = .next t) : OnLine line row before t := by
  rcases hquiet with rfl | rfl
  · exact h.serialStep hs hcycle hturn
  · rcases tickStep_cases hturn with ⟨hline, -⟩ | ⟨-, htick⟩
    · simp [hcycle] at hline
    · exact .inr (h.cycleTick hs htick)

/-- The block when `n` cycles of the line have ended: on the line, until the last one ends, with the row's bit of the last
cycle on `video` and, from the line's last bit on, the line's record emitted. -/
structure LineProgress (line : BitVec 9) (row : List Byte) (before : List LineRecord) (n : Nat) (s : State) : Prop where
  running : n < s.cfg.lineCycles → OnLine line row before s ∧ s.lt = n
  shown : ∀ u < s.cfg.lineCycles, n = u + 1 →
    s.video = videoLevel s.cfg .activePicture (row ++ [0]) u ∧
      (s.cfg.lineEnd ≤ n → s.emitted = before ++ [{ line := line, bytes := row ++ [0] }])

theorem LineProgress.setTurns (h : LineProgress line row before n s) (ts : List Turn) :
    LineProgress line row before n { s with turns := ts } :=
  ⟨fun hn => ⟨(h.running hn).1.setTurns ts, (h.running hn).2⟩, h.shown⟩

theorem LineProgress.takeTurn {turn : Turn} (h : LineProgress line row before n s) (hs : BlockInv s)
    (hcycle : s.level = .cycle) (hallowed : turn = .cycle ∨ turn = .serial ∨ turn = .tick)
    (hturn : takeTurn turn s = .next t) : LineProgress line row before (n + [turn].count .cycle) t := by
  rcases hallowed with rfl | hquiet
  · have hclock : Machine.clockCycle s = .next t := (if_pos hcycle).symm.trans hturn
    have hcfg : t.cfg = s.cfg := by
      obtain ⟨a, ha, hpart⟩ := clockCycle_clockPart hclock
      exact (congrArg ClockPart.cfg hpart).trans (cycleTick_cfg_lt ha).1
    refine ⟨fun hn => ?_, fun u hu hn => ?_⟩
    · have hin : n + 1 < s.cfg.lineCycles := hcfg ▸ hn
      obtain ⟨hon, rfl⟩ := h.running (by omega)
      obtain ⟨-, -, hnext⟩ := hon.clockCycle hs hcycle hclock
      exact hnext hin
    · obtain rfl : n = u := Nat.succ.inj hn
      obtain ⟨hon, rfl⟩ := h.running (hcfg ▸ hu)
      obtain ⟨hvideo, hemit, -⟩ := hon.clockCycle hs hcycle hclock
      exact ⟨hcfg ▸ hvideo, fun hend => (hemit.sent hend).2⟩
  · obtain ⟨hcfg, hlt, hvideo, hemitted⟩ := quietTurn_frame hquiet hcycle hturn
    have hcount : [turn].count .cycle = 0 := by rcases hquiet with rfl | rfl <;> rfl
    rw [hcount, Nat.add_zero]
    refine ⟨fun hn => ?_, fun u hu hn => ?_⟩
    · obtain ⟨hon, heq⟩ := h.running (hcfg ▸ hn)
      exact ⟨hon.quietTurn hs hcycle hquiet hturn, hlt.trans heq⟩
    · rw [hvideo, hemitted, hcfg]
      exact h.shown u (hcfg ▸ hu) hn

/-- A run of listed turns of the clock, the timing controller and the serializer. -/
theorem LineProgress.run {cfg : Cfg} {m : Nat} {ts : List Turn} (h : LineProgress line row before n s)
    (hs : BlockInv s) (hat : AtCycle cfg m s) (hturns : s.turns = ts)
    (hallowed : ∀ turn ∈ ts, turn = .cycle ∨ turn = .serial ∨ turn = .tick) :
    ∃ t, Host.Core.run Sys2Proof.core ts.length s = .next t ∧ t.cfg = cfg ∧
      LineProgress line row before (n + ts.count .cycle) t := by
  induction ts generalizing n m s with
  | nil => exact ⟨s, rfl, hat.cfg_eq, h⟩
  | cons turn ts ih =>
    obtain ⟨hturn, hrest⟩ := List.forall_mem_cons.1 hallowed
    have hs' : BlockInv { s with turns := ts } := hs.congr rfl
    have hrst : turn ≠ .rst := by rcases hturn with rfl | rfl | rfl <;> decide
    obtain ⟨u, hu⟩ := hs'.takeTurn_completes turn
    obtain ⟨hatU, hturnsU⟩ := (hat.setTurns ts).takeTurn hs' hrst hu
    have hprogress := (h.setTurns ts).takeTurn hs' hat.level_eq hturn hu
    obtain ⟨t, hrun, hcfg, ht⟩ := ih hprogress (hs'.takeTurn hu) hatU hturnsU hrest
    refine ⟨t, ?_, hcfg, ?_⟩
    · rw [List.length_cons, run_succ ((step_turn hs.cfgOk hturns).trans hu), hrun]
    · rwa [← List.singleton_append, List.count_append, ← Nat.add_assoc]

/-- A line that is about to start stands, for the clock, at its own number of lines from the field's start. -/
theorem atCycle_of_tickDue (hs : BlockInv s) (hcycle : s.level = .cycle) (hdue : TickDue s) :
    AtCycle s.cfg (s.cfg.lineCycles * s.slc.toNat) s := by
  obtain ⟨hslc, -⟩ := hs.timing
  obtain ⟨hrange, -, -⟩ := hs.clock
  have hpos : 0 < s.cfg.lineCycles := by omega
  refine ⟨rfl, hcycle, ?_, fun _ => ?_, fun hnot => absurd hdue hnot⟩
  · rw [hdue.1, Nat.mul_mod_right]
  · rw [Nat.mul_div_cancel_left _ hpos, Nat.mod_eq_of_lt hslc]

end

/-- Settles O47: the line starts with no cycle ended, and the listed turns bring it to the end of cycle `u`
(`LineProgress.run`). -/
theorem videoShowsTheRow : Obligations.VideoShowsTheRow := by
  intro s row ts u hs hcycle hlt hstage hactive hidle hlen hzeros hwritten hturns hallowed hcount hu
  have hsource : RowBytes row (!s.init) (rowOf s.cfg s.slc.toNat) s :=
    ⟨hlen, fun h => hzeros (by simpa using h), fun h => hwritten (by simpa using h)⟩
  have hdue : TickDue s := ⟨hlt, hstage⟩
  have hwaits : LineWaits s.slc row s.emitted s := ⟨hidle, hactive, hdue, rfl, hsource, rfl⟩
  have hstart : LineProgress s.slc row s.emitted 0 s := ⟨fun _ => ⟨.inl hwaits, hlt⟩, nofun⟩
  obtain ⟨t, hrun, hcfg, hend⟩ := hstart.run hs (atCycle_of_tickDue hs hcycle hdue) hturns hallowed
  obtain ⟨hvideo, hemitted⟩ := hend.shown u (hcfg ▸ hu) (by omega)
  rw [hcfg] at hvideo hemitted
  have hvideo' : t.video = (decide (s.cfg.hStart ≤ u ∧ u < s.cfg.lineEnd) &&
      streamBit (row ++ [0]) ((u - s.cfg.hStart) / s.cfg.bitCycles)) := by simpa [videoLevel] using hvideo
  refine ⟨t, hrun, hvideo', fun hdark => ?_, fun hlast => hemitted (by omega)⟩
  rw [hvideo', hzeros hdark, streamBit_zeros, Bool.and_false]

end Sys2Proof.Machine
end

section
/-! PROOFS. A command on an idle draw unit: its plan as draw steps (R190), how many micro-ops it has (R356), and what the
commands leave that write nothing, every byte, or nothing before INIT (R193, R196, R200, R204, R252). -/

namespace Sys2Proof.Machine

/-- Settles O27: a micro-op either leaves the flag and the framebuffer alone or is one of the two that write. -/
theorem overlapExactlyOnActiveWrites : Obligations.OverlapExactlyOnActiveWrites := by
  intro op s t h
  rcases performOp_cases h with ⟨a, k, kind, rfl, -, rfl⟩ | ⟨a, v, rfl, -, rfl⟩ | ⟨rfl, rfl⟩ | ⟨a, k, rfl, -, rfl⟩ |
    ⟨a, rfl, -, rfl⟩ | ⟨v, rfl, rfl⟩ | ⟨w, rfl, rfl⟩ | ⟨rfl, rfl⟩
  case inl =>
    rw [rmwByte_eq]
    refine ⟨rfl, nofun, fun a' k' kind' heq => ?_⟩
    obtain ⟨rfl, rfl, rfl⟩ := MicroOp.rmw.inj heq
    exact s.mem.lookup_store_self ..
  case inr.inl =>
    rw [drawWrite_eq]
    refine ⟨rfl, fun a' v' heq => ?_, nofun⟩
    obtain ⟨rfl, rfl⟩ := MicroOp.wr.inj heq
    exact s.mem.lookup_store_self ..
  all_goals exact ⟨by simp [opWrites, rdataFromBit_eq, rdataFromByte_eq, setRdata], nofun, nofun⟩

/-! ### The draw steps of a command -/

/-- An idle draw unit accepts a command and performs its plan (R190). -/
theorem exec_idle {s : State} (hidle : s.busy = false) (i : Instr) :
    exec i s = runOps (planOf (.legal i) s) (acceptCommand (.legal i) s) :=
  execCommand_idle hidle (.legal i)

/-- Settles O22: an accepted plan is not empty, so its draw steps are its run (`drawSteps_busy`). -/
theorem commandIsItsDrawSteps : Obligations.CommandIsItsDrawSteps := by
  intro i s hwf hidle
  rw [exec_idle hidle]
  exact (drawSteps_busy (s := acceptCommand (.legal i) s) rfl rfl (planOf_ne_nil hwf _)).symm

/-! ### The number of micro-ops -/

theorem length_guardedPlan {p : Prop} [Decidable p] {plan : List MicroOp} {other : MicroOp} {n : Nat}
    (h : p → plan.length = n) : (if p then plan else [other]).length = if p then n else 1 := by
  split
  · exact h ‹_›
  · rfl

/-- A clipped or gated plan of one micro-op has one micro-op. -/
theorem length_guardedOp {p : Prop} [Decidable p] {op other : MicroOp} :
    (if p then [op] else [other]).length = 1 := by
  split <;> rfl

theorem length_orSkip (plan : List MicroOp) : (orSkip plan).length = max 1 plan.length := by
  cases plan with
  | nil => rfl
  | cons op rest => simp [orSkip]

theorem length_planLine (x0 y0 x1 y1 : Int) (s : State) :
    (planLine x0 y0 x1 y1 s).length =
      if s.init then max 1 ((bresenhamPoints x0 y0 x1 y1).countP fun q => inRange s.cfg q.1 q.2) else 1 :=
  length_guardedPlan fun _ => by rw [length_orSkip, List.length_map, linePixels, List.countP_eq_length_filter]

theorem length_filter_range_lt (n d : Nat) : ((List.range n).filter fun r => decide (r < d)).length = min n d := by
  induction n with
  | zero => simp
  | succ n ih =>
    rw [List.range_succ, List.filter_append, List.length_append, ih]
    by_cases h : n < d <;> simp [h] <;> omega

/-- From a row of the buffer on, as many glyph rows are drawn as the buffer has rows left, at most seven (R231 d). -/
theorem length_digitRows {cfg : Cfg} {y : Int} (hy : 0 ≤ y) : (digitRows cfg y).length = min 7 (cfg.height - y.toNat) := by
  have hrow : ∀ r : Nat, y + (r : Int) ≤ (cfg.height : Int) - 1 ↔ r < cfg.height - y.toNat := fun r => by omega
  simp only [digitRows, hrow, length_filter_range_lt]

theorem length_planDigit (g : Nat) (x y : Int) (s : State) :
    (planDigit g x y s).length =
      if s.init = true ∧ g ≤ 9 ∧ inRange s.cfg x y = true then min 7 (s.cfg.height - y.toNat) else 1 := by
  split
  case isTrue h =>
    obtain ⟨hinit, hg, hin⟩ := h
    obtain ⟨-, hy, -⟩ := inRange_iff.1 hin
    rw [planDigit_drawn hinit hg hin, writeOps, digitCells, List.length_map, List.length_map, length_digitRows hy]
  case isFalse h => rw [planDigit_skip h]; rfl

/-- Settles O26. -/
theorem microOpCounts : Obligations.MicroOpCounts := by
  intro s p g i x y x1 y1 h hwf
  exact ⟨rfl, rfl, rfl, length_guardedPlan fun _ => by simp, length_guardedOp, length_guardedOp, length_guardedOp,
    length_guardedOp, length_guardedOp, length_planLine .., length_planDigit .., planOf_ne_nil hwf⟩

/-! ### NOP, INIT, CLEAR, and every drawing command before INIT -/

/-- A command that plans nothing leaves an idle draw unit and nothing else (R190). -/
theorem exec_skip {s : State} {i : Instr} (hidle : s.busy = false) (hplan : planOf (.legal i) s = [.skip]) :
    exec i s = .next (commandDone s) := by
  rw [exec_idle hidle, hplan]; rfl

/-- Settles O9: NOP plans nothing. -/
theorem nopLeavesEverything : Obligations.NopLeavesEverything :=
  fun _ hidle => ⟨by decide, rfl, exec_skip hidle rfl⟩

/-- Settles O10: INIT plans one SETINIT, and is not gated by `init`. -/
theorem initSetsTheFlag : Obligations.InitSetsTheFlag :=
  fun _ hidle => ⟨by decide, rfl, by rw [exec_idle hidle]; rfl⟩

/-- The drawing commands are gated by `init` (R193). -/
theorem planOf_beforeInit {s : State} (hinit : s.init = false) {p : Byte} {g : Nat} {x y x1 y1 : Int} {i : Instr}
    (hi : i ∈ [Instr.clear p, .pset x y, .preset x y, .pflip x y, .line x y x1 y1, .digit g x y]) :
    planOf (.legal i) s = [.skip] := by
  simp only [List.mem_cons, List.not_mem_nil, or_false] at hi
  rcases hi with rfl | rfl | rfl | rfl | rfl | rfl
  case inr.inr.inr.inr.inr => exact planDigit_skip (by simp [hinit])
  all_goals simp [planOf, planClear, planPset, planPreset, planPflip, planPixel, planLine, hinit]

/-- Settles O21. -/
theorem drawingBeforeInitDoesNothing : Obligations.DrawingBeforeInitDoesNothing := by
  intro s p g x y x1 y1 hidle hinit i hi
  have hplan := planOf_beforeInit hinit hi
  exact ⟨hplan, none, 0, exec_skip hidle hplan⟩

/-- The bytes that CLEAR writes: every one (R204). -/
def clearCells (cfg : Cfg) (p : Byte) : List Host.Cell := (List.range cfg.fbBytes).map fun a => (a, p)

theorem planClear_drawn {s : State} (hinit : s.init = true) (p : Byte) :
    planClear p s = writeOps (clearCells s.cfg p) := by
  simp [planClear, hinit, writeOps, clearCells]

theorem clearCells_inside (cfg : Cfg) (p : Byte) : ∀ c ∈ clearCells cfg p, c.1 < cfg.fbBytes := by
  simp [clearCells]

theorem clearCells_isEmpty {cfg : Cfg} (hwf : cfg.wf) (p : Byte) : (clearCells cfg p).isEmpty = false := by
  simpa [clearCells] using (fbBytes_pos hwf).ne'

/-- Every byte of the buffer reads as the pattern, and no other address is written. -/
theorem lookup_storeAll_clearCells (cfg : Cfg) (p : Byte) (m : Memory) (a : Nat) :
    (m.storeAll (clearCells cfg p)).lookup a = if a < cfg.fbBytes then some p else m.lookup a := by
  split
  case isTrue h => exact m.lookup_storeAll_of_mem (by simpa [clearCells] using h) (by simp [clearCells])
  case isFalse h =>
    exact m.lookup_storeAll_of_forall_ne fun c hc heq => h (heq.trans_lt (clearCells_inside cfg p c hc))

/-- Settles O11: CLEAR plans a write of every byte. -/
theorem clearFillsTheFramebuffer : Obligations.ClearFillsTheFramebuffer := by
  intro s p hwf hidle
  refine ⟨fun hinit => ?_, fun hinit => exec_skip hidle (by simp [planOf, planClear, hinit])⟩
  have hrun := runCommand_writeOps hidle (planClear_drawn hinit p) (clearCells_inside s.cfg p) (.legal (.clear p))
  rw [clearCells_isEmpty hwf, Bool.not_false, Bool.and_true] at hrun
  exact ⟨_, hrun, lookup_storeAll_clearCells s.cfg p s.mem⟩

end Sys2Proof.Machine
end

section
/-! PROOFS. The pixel commands (R210, R213, R216), the two commands that read back (R240, R243), and the laws between them
(R250). -/

namespace Sys2Proof.Machine

section
variable {s : State} {x y : Int}

/-- A command whose plan is one operation on a byte of the buffer (R190). -/
theorem runCommand_atByte {plan : State → List MicroOp} {op : MicroOp} {a : Nat} {f : State → State}
    (hidle : s.busy = false) (hplan : plan s = [op]) (hop : ∀ t, performOp op t = atByte a t f)
    (ha : a < s.cfg.fbBytes) (c : Command) :
    runCommand c plan s = .next (leaveOps [] (f (beginCommand c [op] s))) := by
  rw [runCommand_idle hidle, hplan, runOps_cons, hop, atByte_inside (s := beginCommand c [op] s) ha]
  rfl

/-! ### Reading back -/

/-- The state that a command leaves which puts `v` in `rdata` and has read byte `a` (R190, R67). -/
def readDone (a : Nat) (v : Byte) (s : State) : State :=
  { commandDone s with rdata := v, draws := drawsAfterRead a s }

/-- PGET of a pixel of the buffer (R240). -/
theorem exec_pget (hidle : s.busy = false) (hin : inRange s.cfg x y = true) :
    exec (.pget x y) s = .next (readDone (byteAddr s.cfg x y)
      ((BitVec.ofBool ((readValue (byteAddr s.cfg x y) s).getLsbD (bitPos x))).setWidth 8) s) := by
  have hplan : planPget x y s = [.rdbit (byteAddr s.cfg x y) (bitPos x)] := if_pos hin
  rw [exec, execPget, runCommand_atByte hidle hplan (fun _ => rfl) (byteAddr_lt hin), rdataFromBit_eq]
  rfl

/-- RDBYTE of a byte of the buffer (R243). -/
theorem exec_rdbyte {i : Nat} (hidle : s.busy = false) (hi : i < s.cfg.fbBytes) :
    exec (.rdbyte i) s = .next (readDone i (readValue i s) s) := by
  have hplan : planRdbyte i s = [.rdb i] := if_pos hi
  rw [exec, execRdbyte, runCommand_atByte hidle hplan (fun _ => rfl) hi, rdataFromByte_eq]
  rfl

/-- A command that reads off the buffer puts 0 in `rdata` (R240, R243). -/
theorem exec_setrd {i : Instr} {v : Byte} (hidle : s.busy = false) (hplan : planOf (.legal i) s = [.setrd v]) :
    exec i s = .next { commandDone s with rdata := v } := by
  rw [exec_idle hidle, acceptCommand, hplan]; rfl

/-- `inRange` as the obligations write it out. -/
theorem inRange_iff_bounds {cfg : Cfg} :
    inRange cfg x y = true ↔ 0 ≤ x ∧ x ≤ (cfg.width : Int) - 1 ∧ 0 ≤ y ∧ y ≤ (cfg.height : Int) - 1 :=
  inRange_iff.trans and_assoc

end

/-- Settles O18. -/
theorem pgetReadsOnePixel : Obligations.PgetReadsOnePixel := by
  intro s x y hidle
  rw [← inRange_iff_bounds]
  refine ⟨fun hin => ⟨_, exec_pget hidle hin, ?_⟩, fun hout => exec_setrd hidle (if_neg hout)⟩
  rw [readValue]
  cases ((s.mem.lookup (byteAddr s.cfg x y)).getD (Config.freeByte s.draws)).getLsbD (bitPos x) <;> rfl

/-- Settles O19. -/
theorem rdbyteReadsOneByte : Obligations.RdbyteReadsOneByte := by
  intro s i hidle
  exact ⟨fun hi => exec_rdbyte hidle hi, fun hi => exec_setrd hidle (if_neg (Nat.not_lt.2 hi))⟩

/-! ### Pixel commands -/

/-- The state that a pixel command leaves on a pixel of the buffer (R191, R194). -/
def pixelDone (kind : PixelKind) (x y : Int) (s : State) : State :=
  { commandDone s with
    mem := s.mem.store (byteAddr s.cfg x y) (pixelByte kind (bitPos x) (readValue (byteAddr s.cfg x y) s))
    overlap := s.overlap || decide (s.phase = .activePicture)
    draws := drawsAfterRead (byteAddr s.cfg x y) s }

theorem runCommand_pixel {s : State} {x y : Int} (hidle : s.busy = false) (hinit : s.init = true)
    (hin : inRange s.cfg x y = true) (kind : PixelKind) (c : Command) :
    runCommand c (planPixel kind x y) s = .next (pixelDone kind x y s) := by
  have hplan : planPixel kind x y s = [pixOp s.cfg kind x y] := if_pos (by rw [hinit, hin]; rfl)
  rw [runCommand_atByte hidle hplan (fun _ => rfl) (byteAddr_lt hin), rmwByte_eq]
  rfl

/-- A pixel operation leaves its pixel's byte with the changed value (R66). -/
theorem readValue_pixelDone (kind : PixelKind) (x y : Int) (s : State) :
    readValue (byteAddr s.cfg x y) (pixelDone kind x y s) =
      pixelByte kind (bitPos x) (readValue (byteAddr s.cfg x y) s) := by
  simp [readValue, pixelDone]

/-- Each pixel command has a kind, which says what becomes of its bit (R190, R210, R213, R216). -/
theorem pixelCommand_kind {x y : Int} {e : Instr × (Bool → Bool)}
    (he : e ∈ [(Instr.pset x y, fun _ : Bool => true), (.preset x y, fun _ => false), (.pflip x y, fun b => !b)]) :
    ∃ kind, (∀ s, exec e.1 s = runCommand (.legal e.1) (planPixel kind x y) s) ∧
      ∀ (k j : Nat) (b : Byte), j < 8 →
        (pixelByte kind k b).getLsbD j = if j = k then e.2 (b.getLsbD j) else b.getLsbD j := by
  simp only [List.mem_cons, List.not_mem_nil, or_false] at he
  rcases he with rfl | rfl | rfl
  · exact ⟨.set, fun _ => rfl, fun k j b hj => getLsbD_pixelByte .set k j b hj⟩
  · exact ⟨.clear, fun _ => rfl, fun k j b hj => getLsbD_pixelByte .clear k j b hj⟩
  · exact ⟨.flip, fun _ => rfl, fun k j b hj => getLsbD_pixelByte .flip k j b hj⟩

/-- Settles O12: the kind of each command says which bit it writes back, and a store reaches its own byte alone. -/
theorem pixelCommandsChangeOneBit : Obligations.PixelCommandsChangeOneBit := by
  intro s x y hidle e he
  obtain ⟨kind, hexec, hbit⟩ := pixelCommand_kind he
  rw [← inRange_iff_bounds, hexec]
  refine ⟨fun ⟨hinit, hin⟩ => ⟨_, _, runCommand_pixel hidle hinit hin kind _, s.mem.lookup_store_self .., ?_, ?_⟩,
    fun hout => runCommand_skip hidle (if_neg ?_) _⟩
  · exact fun j hj => hbit _ j _ hj
  · exact fun b hb => by rw [Memory.lookup_store, if_neg hb]
  · rcases hout with hinit | hout <;> simp_all

/-- Flipping a bit twice leaves the byte (R250). -/
theorem pixelByte_flip_flip (k : Nat) (b : Byte) : pixelByte .flip k (pixelByte .flip k b) = b := by
  simp [pixelByte]

/-- A PGET after a pixel operation reads what the operation made of the pixel's bit (R250). -/
theorem exec_pget_pixelDone {s : State} {x y : Int} (hin : inRange s.cfg x y = true) (kind : PixelKind) :
    ∃ u, exec (.pget x y) (pixelDone kind x y s) = .next u ∧ u.rdata = (BitVec.ofBool
      ((pixelByte kind (bitPos x) (readValue (byteAddr s.cfg x y) s)).getLsbD (bitPos x))).setWidth 8 :=
  ⟨_, exec_pget rfl hin, by rw [← readValue_pixelDone kind x y s]; rfl⟩

/-- Settles O20, by what each operation makes of its bit (`getLsbD_pixelByte`, `pixelByte_flip_flip`). -/
theorem pixelLawsByReadBack : Obligations.PixelLawsByReadBack := by
  intro s x y hidle hinit hin
  refine ⟨?_, ?_, ?_⟩
  · obtain ⟨u, hu, hdata⟩ := exec_pget_pixelDone hin .set
    refine ⟨_, u, runCommand_pixel hidle hinit hin .set _, hu, ?_⟩
    rw [hdata, getLsbD_pixelByte _ _ _ _ (bitPos_lt x), if_pos rfl]
    rfl
  · obtain ⟨u, hu, hdata⟩ := exec_pget_pixelDone hin .clear
    refine ⟨_, u, runCommand_pixel hidle hinit hin .clear _, hu, ?_⟩
    rw [hdata, getLsbD_pixelByte _ _ _ _ (bitPos_lt x), if_pos rfl]
    rfl
  · refine ⟨_, _, runCommand_pixel hidle hinit hin .flip _,
      runCommand_pixel (s := pixelDone .flip x y s) rfl hinit hin .flip _, fun v hv => ?_⟩
    have hread : readValue (byteAddr s.cfg x y) s = v := by rw [readValue, hv, Option.getD_some]
    calc (pixelDone .flip x y (pixelDone .flip x y s)).mem.lookup (byteAddr s.cfg x y)
      _ = some (pixelByte .flip (bitPos x) (readValue (byteAddr s.cfg x y) (pixelDone .flip x y s))) :=
        Memory.lookup_store_self ..
      _ = some v := by rw [readValue_pixelDone, hread, pixelByte_flip_flip]

end Sys2Proof.Machine
end

section
/-! PROOFS. The turn that writes a command's last word (R190, R262). -/

namespace Sys2Proof.Machine

/-- A `.command` turn on the last word of a command to an idle block at the line level (R190, R262). -/
theorem commandTurn_lastWord {s : State} {w : Word} {rest : List HostAccess} (hline : s.level = .line)
    (hidle : s.busy = false) (hbus : s.hostBus = .write 5 w :: rest)
    (hlast : s.asmIdx.toNat + 1 = asmLength (asmStore w s)) :
    commandTurn s = execCommand (commandOf ((asmStore w s).toList.take (asmLength (asmStore w s))))
      { s with hostBus := rest, asmBuf := asmStore w s, asmIdx := 0 } := by
  have htake := takeWord_last (s := { s with hostBus := rest }) hlast
  have hcmd : (5 : BitVec 3) = cmdAddr ∧ s.busy = false ∧ s.level = .line := ⟨rfl, hidle, hline⟩
  simp only [commandTurn, hbus, if_pos hcmd, htake]
  rfl

/-- Settles O29: the word completes the command, and its words decode to `i`. -/
theorem stepRunsTheDecodedCommand : Obligations.StepRunsTheDecodedCommand := by
  intro s w i ts rest hwf hline hidle hturns hbus hlast hdecode
  have hcommand : commandOf ((asmStore w s).toList.take (asmLength (asmStore w s))) = .legal i := by
    simp only [commandOf, hdecode]
  rw [step_turn hwf hturns, takeTurn, commandTurn_lastWord (s := { s with turns := ts }) hline hidle hbus hlast]
  exact congrArg (execCommand · _) hcommand

/-- Settles O30, by the host turn of a command's last word (`step_lastWord`). -/
theorem lastWordIsAccepted : Obligations.LastWordIsAccepted := by
  intro s w ts rest hwf hidle hturns hbus hlast
  exact ⟨_, rfl, step_lastWord hwf hidle hturns hbus hlast⟩

end Sys2Proof.Machine
end

section
/-! PROOFS. The points of a line (R221, R222): a closed form of the loop, with the error term as its invariant. -/

namespace Sys2Proof.Machine

/-! ### Steps in the minor axis -/

/-- How far a line with `M` steps in its dominant axis and `m` in the other is in that other axis at point `k`. -/
def minorSteps (M m k : Nat) : Nat := (k * m + M - 1 - M / 2) / M

/-- The error term of R221 after `k` steps in the dominant axis and `q` in the other, seen from the dominant axis. -/
def errorTerm (M m k q : Nat) : Int := ((M / 2 : Nat) : Int) - k * m + q * M

/-- The error term stays in a range of `M` values, and the other axis steps exactly as that asks. -/
theorem minorSteps_eq_iff {M m k q : Nat} (hM : 0 < M) :
    minorSteps M m k = q ↔ 0 ≤ errorTerm M m k q ∧ errorTerm M m k q < M := by
  have hcast : errorTerm M m k q = ((M / 2 : Nat) : Int) - (k * m : Nat) + (q * M : Nat) := by
    simp [errorTerm]
  rw [minorSteps, Nat.div_eq_iff hM, hcast]
  omega

theorem errorTerm_bounds {M : Nat} (hM : 0 < M) (m k : Nat) :
    0 ≤ errorTerm M m k (minorSteps M m k) ∧ errorTerm M m k (minorSteps M m k) < M :=
  (minorSteps_eq_iff hM).1 rfl

@[simp] theorem minorSteps_zero (M m : Nat) : minorSteps M m 0 = 0 := by
  rcases Nat.eq_zero_or_pos M with rfl | hM
  · simp [minorSteps]
  · rw [minorSteps_eq_iff hM, errorTerm]; omega

/-- At the end of the line the other axis has made all its steps. -/
theorem minorSteps_end {M m : Nat} (hm : m ≤ M) : minorSteps M m M = m := by
  rcases Nat.eq_zero_or_pos M with rfl | hM
  · simp [Nat.le_zero.1 hm]
  · rw [minorSteps_eq_iff hM, errorTerm, Int.mul_comm]; omega

/-- On a diagonal the two axes step together. -/
theorem minorSteps_diagonal {M k : Nat} (hk : k ≤ M) : minorSteps M M k = k := by
  rcases Nat.eq_zero_or_pos M with rfl | hM
  · simp [Nat.le_zero.1 hk]
  · rw [minorSteps_eq_iff hM, errorTerm]; omega

theorem errorTerm_succ (M m k q : Nat) : errorTerm M m (k + 1) q = errorTerm M m k q - m := by
  simp only [errorTerm, Nat.cast_add, Nat.cast_one]; ring

theorem errorTerm_succ_succ (M m k q : Nat) : errorTerm M m (k + 1) (q + 1) = errorTerm M m k q - m + M := by
  simp only [errorTerm, Nat.cast_add, Nat.cast_one]; ring

/-- The other axis steps when the error term is below `m` (R221). -/
theorem minorSteps_succ {M m : Nat} (hM : 0 < M) (hm : m ≤ M) (k : Nat) :
    minorSteps M m (k + 1) =
      if errorTerm M m k (minorSteps M m k) < m then minorSteps M m k + 1 else minorSteps M m k := by
  obtain ⟨hlo, hhi⟩ := errorTerm_bounds hM m k
  split
  · rw [minorSteps_eq_iff hM, errorTerm_succ_succ]; omega
  · rw [minorSteps_eq_iff hM, errorTerm_succ]; omega

/-! ### The loop -/

section
variable {x0 y0 x1 y1 dx dy sx sy err x y : Int} {n M m k : Nat}

theorem bresenhamFrom_end : bresenhamFrom x1 y1 dx dy sx sy (n + 1) err x1 y1 = [(x1, y1)] := by
  simp [bresenhamFrom]

theorem bresenhamFrom_step (h : ¬(x = x1 ∧ y = y1)) :
    bresenhamFrom x1 y1 dx dy sx sy (n + 1) err x y =
      (x, y) :: bresenhamFrom x1 y1 dx dy sx sy n
        ((err - if err > -dx then dy else 0) + if err < dy then dx else 0)
        (if err > -dx then x + sx else x) (if err < dy then y + sy else y) := by
  simp [bresenhamFrom, h]

/-- The loop treats its axes alike: exchanging them exchanges the sign of the error term and the coordinates (R221). -/
theorem bresenhamFrom_swap (n : Nat) (err x y : Int) :
    bresenhamFrom x1 y1 dx dy sx sy n err x y =
      (bresenhamFrom y1 x1 dy dx sy sx n (-err) y x).map Prod.swap := by
  induction n generalizing err x y with
  | zero => rfl
  | succ n ih =>
    by_cases hend : x = x1 ∧ y = y1
    · obtain ⟨rfl, rfl⟩ := hend
      rw [bresenhamFrom_end, bresenhamFrom_end]; rfl
    · have hend' : ¬(y = y1 ∧ x = x1) := fun h => hend h.symm
      have hx : -err < dx ↔ err > -dx := by omega
      have hy : -err > -dy ↔ err < dy := by omega
      rw [bresenhamFrom_step hend, bresenhamFrom_step hend', List.map_cons, ih]
      simp only [hx, hy, Prod.swap]
      congr 4
      split <;> split <;> omega

/-- Point `k` of a line from `(x0, y0)` that steps by `sx` in its dominant axis, the first coordinate, and by `sy` in the
other. -/
def dominantPoint (x0 y0 sx sy : Int) (M m k : Nat) : Int × Int := (x0 + sx * k, y0 + sy * minorSteps M m k)

/-- The points of such a line (R221). -/
def dominantPoints (x0 y0 sx sy : Int) (M m : Nat) : List (Int × Int) :=
  (List.range (M + 1)).map (dominantPoint x0 y0 sx sy M m)

/-- The loop from point `k` on, with `left` points to come after it: the error term stays in its range, so the dominant
axis steps every time. -/
theorem bresenhamFrom_dominant {left : Nat} (hm : m ≤ M) (hsx : sx ≠ 0) (hk : k + left = M) (hn : left < n) :
    bresenhamFrom (x0 + sx * M) (y0 + sy * m) M m sx sy n (errorTerm M m k (minorSteps M m k))
      (x0 + sx * k) (y0 + sy * minorSteps M m k) =
    (List.range' k (left + 1)).map (dominantPoint x0 y0 sx sy M m) := by
  obtain ⟨n, rfl⟩ : ∃ n', n = n' + 1 := ⟨n - 1, by omega⟩
  induction left generalizing k n with
  | zero =>
    obtain rfl : k = M := hk
    rw [minorSteps_end hm, bresenhamFrom_end, List.range'_one, List.map_singleton, dominantPoint, minorSteps_end hm]
  | succ left ih =>
    have hM : 0 < M := by omega
    obtain ⟨hlo, hhi⟩ := errorTerm_bounds hM m k
    have hnot : ¬(x0 + sx * k = x0 + sx * M ∧ y0 + sy * minorSteps M m k = y0 + sy * m) := by
      rintro ⟨hx, -⟩
      have : (k : Int) = M := mul_left_cancel₀ hsx (by omega)
      omega
    have hstepX : errorTerm M m k (minorSteps M m k) > -(M : Int) := by omega
    obtain ⟨n, rfl⟩ : ∃ n', n = n' + 1 := ⟨n - 1, by omega⟩
    have hrest := ih (k := k + 1) (by omega) n (by omega)
    have hx : x0 + sx * (k + 1 : Nat) = x0 + sx * k + sx := by push_cast; ring
    rw [hx, minorSteps_succ hM hm] at hrest
    rw [bresenhamFrom_step hnot, List.range'_succ, List.map_cons, ← hrest, if_pos hstepX, if_pos hstepX]
    congr 1
    split
    · rw [errorTerm_succ_succ]; push_cast; congr 1; ring
    · rw [errorTerm_succ, add_zero]

end

/-- The step sign of an axis (R221). -/
def stepSign (a b : Int) : Int := if a < b then 1 else -1

theorem stepSign_eq_or (a b : Int) : stepSign a b = 1 ∨ stepSign a b = -1 := by
  unfold stepSign; split <;> simp

theorem stepSign_ne_zero (a b : Int) : stepSign a b ≠ 0 := by
  rcases stepSign_eq_or a b with h | h <;> rw [h] <;> decide

theorem add_stepSign_mul (a b n : Int) : a + stepSign a b * n = if a < b then a + n else a - n := by
  unfold stepSign; split <;> ring

/-- The distance in the direction of the sign leads to the other end. -/
theorem add_stepSign_mul_natAbs (a b : Int) : a + stepSign a b * ((b - a).natAbs : Int) = b := by
  rw [add_stepSign_mul]; split <;> omega

/-- The loop starts with half of the dominant distance as its error term (R221). -/
theorem errorTerm_start (M m : Nat) : errorTerm M m 0 0 = Int.tdiv M 2 := by
  simp only [errorTerm, Nat.cast_zero, zero_mul, sub_zero, add_zero]; rfl

/-- The whole loop, when the axis of `a` is dominant. -/
theorem bresenhamFrom_start {a0 b0 a1 b1 : Int} {n : Nat} (h : (b1 - b0).natAbs ≤ (a1 - a0).natAbs)
    (hn : (a1 - a0).natAbs < n) :
    bresenhamFrom a1 b1 (a1 - a0).natAbs (b1 - b0).natAbs (stepSign a0 a1) (stepSign b0 b1) n
      (Int.tdiv (a1 - a0).natAbs 2) a0 b0 =
    dominantPoints a0 b0 (stepSign a0 a1) (stepSign b0 b1) (a1 - a0).natAbs (b1 - b0).natAbs := by
  have hloop := bresenhamFrom_dominant (x0 := a0) (y0 := b0) (sy := stepSign b0 b1) (k := 0) h
    (stepSign_ne_zero a0 a1) (Nat.zero_add _) hn
  rw [add_stepSign_mul_natAbs, add_stepSign_mul_natAbs, minorSteps_zero, errorTerm_start, Nat.cast_zero, mul_zero,
    mul_zero, add_zero, add_zero] at hloop
  rw [hloop, dominantPoints, List.range_eq_range']

/-- R221 with its step signs named. -/
theorem bresenhamPoints_eq (x0 y0 x1 y1 : Int) :
    bresenhamPoints x0 y0 x1 y1 =
      bresenhamFrom x1 y1 (x1 - x0).natAbs (y1 - y0).natAbs (stepSign x0 x1) (stepSign y0 y1)
        ((x1 - x0).natAbs + (y1 - y0).natAbs + 1)
        (Int.tdiv (if ((x1 - x0).natAbs : Int) > (y1 - y0).natAbs then (x1 - x0).natAbs else -(y1 - y0).natAbs) 2)
        x0 y0 := rfl

/-- The points of a line that is wider than tall (R221, R222 item 4). -/
theorem bresenhamPoints_of_lt {x0 y0 x1 y1 : Int} (h : (y1 - y0).natAbs < (x1 - x0).natAbs) :
    bresenhamPoints x0 y0 x1 y1 =
      dominantPoints x0 y0 (stepSign x0 x1) (stepSign y0 y1) (x1 - x0).natAbs (y1 - y0).natAbs := by
  rw [bresenhamPoints_eq, if_pos (by omega), bresenhamFrom_start h.le (by omega)]

/-- The points of a line that is at least as tall as wide: the loop with its axes exchanged (R221, R222 item 4). -/
theorem bresenhamPoints_of_le {x0 y0 x1 y1 : Int} (h : (x1 - x0).natAbs ≤ (y1 - y0).natAbs) :
    bresenhamPoints x0 y0 x1 y1 =
      (dominantPoints y0 x0 (stepSign y0 y1) (stepSign x0 x1) (y1 - y0).natAbs (x1 - x0).natAbs).map Prod.swap := by
  rw [bresenhamPoints_eq, if_neg (by omega), bresenhamFrom_swap, Int.neg_tdiv, neg_neg,
    bresenhamFrom_start h (by omega)]

/-! ### Where point `k` is -/

theorem getElem?_dominantPoints {x0 y0 sx sy : Int} {M m k : Nat} {p : Int × Int}
    (h : (dominantPoints x0 y0 sx sy M m)[k]? = some p) : k ≤ M ∧ p = dominantPoint x0 y0 sx sy M m k := by
  obtain ⟨hk, hp⟩ := List.getElem?_eq_some_iff.1 h
  simp only [dominantPoints, List.length_map, List.length_range] at hk
  exact ⟨by omega, by simpa [dominantPoints] using hp.symm⟩

/-- On a diagonal either axis is the dominant one. -/
theorem dominantPoint_diagonal {M k : Nat} (hk : k ≤ M) (x0 y0 sx sy : Int) :
    (dominantPoint y0 x0 sy sx M M k).swap = dominantPoint x0 y0 sx sy M M k := by
  simp [dominantPoint, minorSteps_diagonal hk]

/-- The points of a line whose x axis is dominant. -/
theorem getElem?_bresenhamPoints_of_ge {x0 y0 x1 y1 : Int} {k : Nat} {p : Int × Int}
    (hp : (bresenhamPoints x0 y0 x1 y1)[k]? = some p) (h : (y1 - y0).natAbs ≤ (x1 - x0).natAbs) :
    p = dominantPoint x0 y0 (stepSign x0 x1) (stepSign y0 y1) (x1 - x0).natAbs (y1 - y0).natAbs k := by
  rcases Nat.lt_or_eq_of_le h with hlt | heq
  · rw [bresenhamPoints_of_lt hlt] at hp
    exact (getElem?_dominantPoints hp).2
  · rw [bresenhamPoints_of_le heq.ge, List.getElem?_map, Option.map_eq_some_iff] at hp
    obtain ⟨q, hq, rfl⟩ := hp
    obtain ⟨hk, rfl⟩ := getElem?_dominantPoints hq
    rw [heq, dominantPoint_diagonal (heq ▸ hk)]

/-- The points of a line whose y axis is dominant. -/
theorem getElem?_bresenhamPoints_of_le {x0 y0 x1 y1 : Int} {k : Nat} {p : Int × Int}
    (hp : (bresenhamPoints x0 y0 x1 y1)[k]? = some p) (h : (x1 - x0).natAbs ≤ (y1 - y0).natAbs) :
    p = (dominantPoint y0 x0 (stepSign y0 y1) (stepSign x0 x1) (y1 - y0).natAbs (x1 - x0).natAbs k).swap := by
  rw [bresenhamPoints_of_le h, List.getElem?_map, Option.map_eq_some_iff] at hp
  obtain ⟨q, hq, rfl⟩ := hp
  rw [(getElem?_dominantPoints hq).2]

/-- Settles O16, by the closed form of each point. -/
theorem bresenhamDominantAxis : Obligations.BresenhamDominantAxis := by
  intro x0 y0 x1 y1 k p hp
  refine ⟨fun h => ?_, fun h => ?_⟩
  · rw [getElem?_bresenhamPoints_of_ge hp h]
    exact ⟨add_stepSign_mul .., fun _ => add_stepSign_mul ..⟩
  · rw [getElem?_bresenhamPoints_of_le hp h]
    exact ⟨add_stepSign_mul .., fun _ => add_stepSign_mul ..⟩

/-! ### The line as a path -/

/-- A list of `n + 1` different points from `p` to `q`, each at most one away from the next in each coordinate (R222). -/
structure IsPath (p q : Int × Int) (n : Nat) (P : List (Int × Int)) : Prop where
  length_eq : P.length = n + 1
  head_eq : P.head? = some p
  last_eq : P.getLast? = some q
  nodup : P.Nodup
  close : ∀ k u v, P[k]? = some u → P[k + 1]? = some v → (v.1 - u.1).natAbs ≤ 1 ∧ (v.2 - u.2).natAbs ≤ 1 ∧ u ≠ v

theorem IsPath.swap {p q : Int × Int} {n : Nat} {P : List (Int × Int)} (h : IsPath p q n P) :
    IsPath p.swap q.swap n (P.map Prod.swap) where
  length_eq := by rw [List.length_map, h.length_eq]
  head_eq := by rw [List.head?_map, h.head_eq]; rfl
  last_eq := by rw [List.getLast?_map, h.last_eq]; rfl
  nodup := h.nodup.map Prod.swap_injective
  close := fun k u v hu hv => by
    rw [List.getElem?_map, Option.map_eq_some_iff] at hu hv
    obtain ⟨u, hu, rfl⟩ := hu
    obtain ⟨v, hv, rfl⟩ := hv
    obtain ⟨hfst, hsnd, hne⟩ := h.close k u v hu hv
    exact ⟨hsnd, hfst, Prod.swap_injective.ne hne⟩

/-- Different points of a line differ in its dominant axis. -/
theorem dominantPoint_injective {sx : Int} (hsx : sx ≠ 0) (x0 y0 sy : Int) (M m : Nat) :
    Function.Injective (dominantPoint x0 y0 sx sy M m) := by
  intro k k' h
  have hx : sx * (k : Int) = sx * k' := by simpa [dominantPoint] using congrArg Prod.fst h
  exact_mod_cast mul_left_cancel₀ hsx hx

/-- From one point to the next there is one step in the dominant axis, and one or none in the other. -/
theorem dominantPoint_succ_sub {M m : Nat} (hm : m ≤ M) (hM : 0 < M) (x0 y0 sx sy : Int) (k : Nat) :
    (dominantPoint x0 y0 sx sy M m (k + 1)).1 - (dominantPoint x0 y0 sx sy M m k).1 = sx ∧
    ((dominantPoint x0 y0 sx sy M m (k + 1)).2 - (dominantPoint x0 y0 sx sy M m k).2 = sy ∨
      (dominantPoint x0 y0 sx sy M m (k + 1)).2 - (dominantPoint x0 y0 sx sy M m k).2 = 0) := by
  simp only [dominantPoint, minorSteps_succ hM hm]
  refine ⟨by push_cast; ring, ?_⟩
  split
  · exact .inl (by push_cast; ring)
  · exact .inr (sub_self _)

theorem isPath_dominantPoints {x0 y0 sx sy : Int} {M m : Nat} (hm : m ≤ M) (hsx : sx = 1 ∨ sx = -1)
    (hsy : sy = 1 ∨ sy = -1) :
    IsPath (x0, y0) (x0 + sx * M, y0 + sy * m) M (dominantPoints x0 y0 sx sy M m) := by
  have hinj := dominantPoint_injective (sx := sx) (by omega) x0 y0 sy M m
  constructor
  case length_eq => simp [dominantPoints]
  case head_eq => simp [dominantPoints, List.head?_range, dominantPoint]
  case last_eq => simp [dominantPoints, List.getLast?_range, dominantPoint, minorSteps_end hm]
  case nodup => exact List.nodup_range.map hinj
  case close =>
    intro k u v hu hv
    obtain ⟨-, rfl⟩ := getElem?_dominantPoints hu
    obtain ⟨hk, rfl⟩ := getElem?_dominantPoints hv
    obtain ⟨hfst, hsnd⟩ := dominantPoint_succ_sub hm (by omega) x0 y0 sx sy k
    exact ⟨by omega, by omega, hinj.ne (Nat.ne_of_lt k.lt_succ_self)⟩

theorem isPath_bresenhamPoints (x0 y0 x1 y1 : Int) :
    IsPath (x0, y0) (x1, y1) (max (x1 - x0).natAbs (y1 - y0).natAbs) (bresenhamPoints x0 y0 x1 y1) := by
  have hsx := stepSign_eq_or x0 x1
  have hsy := stepSign_eq_or y0 y1
  rcases Nat.lt_or_ge (y1 - y0).natAbs (x1 - x0).natAbs with h | h
  · have hpath := isPath_dominantPoints (x0 := x0) (y0 := y0) h.le hsx hsy
    rw [add_stepSign_mul_natAbs, add_stepSign_mul_natAbs] at hpath
    rwa [bresenhamPoints_of_lt h, max_eq_left h.le]
  · have hpath := (isPath_dominantPoints (x0 := y0) (y0 := x0) h hsy hsx).swap
    rw [add_stepSign_mul_natAbs, add_stepSign_mul_natAbs] at hpath
    rwa [bresenhamPoints_of_le h, max_eq_right h]

/-- Settles O15. -/
theorem bresenhamReachesItsEndpoint : Obligations.BresenhamReachesItsEndpoint := by
  intro x0 y0 x1 y1
  obtain ⟨hlength, hhead, hlast, hnodup, hclose⟩ := isPath_bresenhamPoints x0 y0 x1 y1
  exact ⟨hlength, hhead, hlast, hnodup, hclose⟩

end Sys2Proof.Machine
end

section
/-! PROOFS. LINE (R220, R223): a run of bit sets over bytes that may be unwritten, each of which is read as a free byte once
(R67). -/

namespace Sys2Proof.Machine

/-! ### What a run of byte operations finds -/

/-- The addresses of `addrs` that are unwritten in `m`, in the order of their first visit. -/
def newAddrs (m : Memory) (addrs : List Nat) : List Nat := (addrs.filter fun a => !m.written a).eraseDups

/-- What the first operation on byte `a` finds, of operations on each of `addrs` in turn (R66, R67). -/
def firstFound (s : State) (addrs : List Nat) (a : Nat) : Byte :=
  (s.mem.lookup a).getD (Config.freeByte (s.draws + (newAddrs s.mem addrs).idxOf a))

theorem Memory.written_store (m : Memory) (a b : Nat) (v : Byte) :
    (m.store a v).written b = (b == a || m.written b) := by
  by_cases h : b = a <;> simp [Memory.written, h]

/-- Writing a byte takes it from the unwritten ones. -/
theorem newAddrs_store (m : Memory) (a : Nat) (v : Byte) (addrs : List Nat) :
    newAddrs (m.store a v) addrs = ((addrs.filter fun b => !m.written b).filter fun b => !b == a).eraseDups := by
  simp only [newAddrs, List.filter_filter, Memory.written_store, Bool.not_or]

theorem newAddrs_cons_of_written {m : Memory} {a : Nat} (h : m.written a = true) (v : Byte) (addrs : List Nat) :
    newAddrs m (a :: addrs) = newAddrs (m.store a v) addrs := by
  have hwritten : ∀ b, (m.store a v).written b = m.written b := fun b => by
    rw [Memory.written_store]
    by_cases hb : b = a <;> simp [hb, h]
  simp [newAddrs, h, hwritten]

theorem newAddrs_cons_of_unwritten {m : Memory} {a : Nat} (h : m.written a = false) (v : Byte) (addrs : List Nat) :
    newAddrs m (a :: addrs) = a :: newAddrs (m.store a v) addrs := by
  rw [newAddrs_store, newAddrs, List.filter_cons_of_pos (by simp [h]), List.eraseDups_cons]

section
variable {s t : State} {b : Nat} {v : Byte} {addrs : List Nat}

/-- A run of operations draws one free byte for each unwritten byte it meets (R67). -/
theorem length_newAddrs_cons (s : State) (b : Nat) (v : Byte) (addrs : List Nat) :
    drawsAfterRead b s + (newAddrs (s.mem.store b v) addrs).length =
      s.draws + (newAddrs s.mem (b :: addrs)).length := by
  cases h : s.mem.written b with
  | true => rw [newAddrs_cons_of_written h v, drawsAfterRead, if_pos h]
  | false =>
    rw [newAddrs_cons_of_unwritten h v, drawsAfterRead, if_neg (by simp [h]), List.length_cons]
    omega

/-- The first operation finds what its byte reads as. -/
theorem firstFound_cons_self (s : State) (b : Nat) (addrs : List Nat) :
    firstFound s (b :: addrs) b = readValue b s := by
  cases hb : s.mem.lookup b with
  | some u => simp [firstFound, readValue, hb]
  | none =>
    have hnew : s.mem.written b = false := by simp [Memory.written, hb]
    simp [firstFound, newAddrs_cons_of_unwritten hnew 0, readValue]

/-- An operation on byte `b` leaves what the others find at every other byte. -/
theorem firstFound_cons_of_ne {a : Nat} (ha : a ≠ b) (hmem : t.mem = s.mem.store b v)
    (hdraws : t.draws = drawsAfterRead b s) : firstFound s (b :: addrs) a = firstFound t addrs a := by
  rw [firstFound, firstFound, hmem, hdraws, Memory.lookup_store, if_neg ha]
  cases h : s.mem.written b with
  | true => rw [newAddrs_cons_of_written h v, drawsAfterRead, if_pos h]
  | false =>
    rw [newAddrs_cons_of_unwritten h v, drawsAfterRead, if_neg (by simp [h]), List.idxOf_cons_ne _ ha.symm]
    congr 2
    omega

/-- A byte that an operation has written is found with the value written. -/
theorem firstFound_written (hmem : t.mem = s.mem.store b v) : firstFound t addrs b = v := by
  rw [firstFound, hmem, Memory.lookup_store_self, Option.getD_some]

end

/-! ### A run of bit sets -/

/-- The micro-ops that set the given bits, each given as a byte's address and a bit's position (R190, R191). -/
def setOps (bits : List (Nat × Nat)) : List MicroOp := bits.map fun c => .rmw c.1 c.2 .set

/-- Byte `a`, found as `v`, after the given bits are set in order. -/
def setBits : List (Nat × Nat) → Nat → Byte → Byte
  | [], _, v => v
  | c :: rest, a, v => setBits rest a (if c.1 = a then pixelByte .set c.2 v else v)

theorem setBits_of_forall_ne {bits : List (Nat × Nat)} {a : Nat} (h : ∀ c ∈ bits, c.1 ≠ a) (v : Byte) :
    setBits bits a v = v := by
  induction bits with
  | nil => rfl
  | cons c rest ih =>
    obtain ⟨hc, hrest⟩ := List.forall_mem_cons.1 h
    rw [setBits, if_neg hc, ih hrest]

/-- Bit `j` of the byte is set if it was or if it is among the bits to set. -/
theorem getLsbD_setBits (bits : List (Nat × Nat)) (a : Nat) (v : Byte) {j : Nat} (hj : j < 8) :
    (setBits bits a v).getLsbD j = (v.getLsbD j || bits.any fun c => decide (c.1 = a ∧ c.2 = j)) := by
  induction bits generalizing v with
  | nil => simp [setBits]
  | cons c rest ih =>
    rw [setBits, ih, List.any_cons, ← Bool.or_assoc]
    congr 1
    split
    case isTrue ha => rw [getLsbD_pixelByte _ _ _ _ hj]; by_cases hc : j = c.2 <;> simp [ha, hc, eq_comm]
    case isFalse ha => simp [ha]

/-- What byte `a` holds after the given bits are set in order: a byte with a bit to set is found once and written with its
bits set, and every other byte is as it was (R66, R67). -/
def lookupAfterSets (s : State) (bits : List (Nat × Nat)) (a : Nat) : Option Byte :=
  if a ∈ bits.map Prod.fst then some (setBits bits a (firstFound s (bits.map Prod.fst) a)) else s.mem.lookup a

/-- The rest of a run goes on from what its first operation leaves. -/
theorem lookupAfterSets_cons (s : State) (b k : Nat) (rest : List (Nat × Nat)) (a : Nat) :
    lookupAfterSets s ((b, k) :: rest) a = lookupAfterSets (rmwByte b k .set s) rest a := by
  have hmem : (rmwByte b k .set s).mem = s.mem.store b (pixelByte .set k (readValue b s)) := by rw [rmwByte_eq]
  have hdraws : (rmwByte b k .set s).draws = drawsAfterRead b s := by rw [rmwByte_eq]
  unfold lookupAfterSets
  rw [List.map_cons]
  by_cases ha : a = b
  · subst ha
    rw [if_pos List.mem_cons_self, setBits, if_pos rfl, firstFound_cons_self, firstFound_written hmem, hmem,
      Memory.lookup_store_self]
    split
    case isTrue => rfl
    case isFalse hout => rw [setBits_of_forall_ne fun c hc heq => hout (List.mem_map.2 ⟨c, hc, heq⟩)]
  · rw [firstFound_cons_of_ne ha hmem hdraws, hmem, Memory.lookup_store, if_neg ha, setBits, if_neg (Ne.symm ha)]
    simp only [List.mem_cons, ha, false_or]

/-- What a run of bit sets inside the framebuffer leaves: the bits set, one free byte drawn for each unwritten byte it meets,
`overlap` when it writes on an active line, and an idle draw unit (R67, R190, R194). -/
theorem runOps_setOps {bits : List (Nat × Nat)} {s : State} (h : ∀ c ∈ bits, c.1 < s.cfg.fbBytes) :
    ∃ m : Memory,
      runOps (setOps bits) s = .next { commandDone s with
        mem := m
        draws := s.draws + (newAddrs s.mem (bits.map Prod.fst)).length
        overlap := s.overlap || (decide (s.phase = .activePicture) && !bits.isEmpty) } ∧
      ∀ a, m.lookup a = lookupAfterSets s bits a := by
  induction bits generalizing s with
  | nil => exact ⟨s.mem, by simp [setOps, newAddrs, leaveOps, commandDone], fun a => by simp [lookupAfterSets]⟩
  | cons c rest ih =>
    obtain ⟨b, k⟩ := c
    obtain ⟨hb, hrest⟩ := List.forall_mem_cons.1 h
    have hop : performOp (.rmw b k .set) s = .next (rmwByte b k .set s) := atByte_inside hb
    obtain ⟨m, hrun, hlookup⟩ := ih (s := rmwByte b k .set s) (by rw [rmwByte_eq]; exact hrest)
    refine ⟨m, ?_, fun a => by rw [hlookup, lookupAfterSets_cons]⟩
    rw [setOps, List.map_cons, runOps_cons, hop, andThen_next, ← setOps, hrun, rmwByte_eq]
    cases hactive : decide (s.phase = .activePicture) <;> simp [commandDone, length_newAddrs_cons]

/-! ### LINE -/

/-- The bits of the points that lie in the buffer (R61, R223 b). -/
def pointBits (cfg : Cfg) (points : List (Int × Int)) : List (Nat × Nat) :=
  (points.filter fun p => inRange cfg p.1 p.2).map fun p => (byteAddr cfg p.1 p.2, bitPos p.1)

theorem pointBits_inside (cfg : Cfg) (points : List (Int × Int)) : ∀ c ∈ pointBits cfg points, c.1 < cfg.fbBytes := by
  intro c hc
  obtain ⟨p, hp, rfl⟩ := List.mem_map.1 hc
  exact byteAddr_lt (List.mem_filter.1 hp).2

theorem map_fst_pointBits (cfg : Cfg) (points : List (Int × Int)) :
    (pointBits cfg points).map Prod.fst =
      (points.filter fun p => inRange cfg p.1 p.2).map fun p => byteAddr cfg p.1 p.2 :=
  List.map_map

theorem mem_map_fst_pointBits {cfg : Cfg} {points : List (Int × Int)} {a : Nat} :
    a ∈ (pointBits cfg points).map Prod.fst ↔
      ∃ p ∈ points, inRange cfg p.1 p.2 = true ∧ byteAddr cfg p.1 p.2 = a := by
  rw [map_fst_pointBits, List.mem_map]
  simp only [List.mem_filter, and_assoc]

/-- The unwritten bytes of the points are those that their bits' bytes meet unwritten. -/
theorem newAddrs_pointBits (s : State) (points : List (Int × Int)) :
    newAddrs s.mem ((pointBits s.cfg points).map Prod.fst) = newBytes s points := by
  rw [map_fst_pointBits]; rfl

theorem firstFound_pointBits (s : State) (points : List (Int × Int)) (a : Nat) :
    firstFound s ((pointBits s.cfg points).map Prod.fst) a = foundByte s points a := by
  rw [map_fst_pointBits]; rfl

theorem any_pointBits (cfg : Cfg) (points : List (Int × Int)) (a j : Nat) :
    ((pointBits cfg points).any fun c => decide (c.1 = a ∧ c.2 = j)) =
      points.any fun p => inRange cfg p.1 p.2 && decide (byteAddr cfg p.1 p.2 = a ∧ bitPos p.1 = j) := by
  rw [pointBits, List.any_map, List.any_filter]; rfl

theorem not_isEmpty_pointBits (cfg : Cfg) (points : List (Int × Int)) :
    (!(pointBits cfg points).isEmpty) = points.any fun p => inRange cfg p.1 p.2 := by
  rw [pointBits, List.isEmpty_map]
  induction points with
  | nil => rfl
  | cons p rest ih => cases hp : inRange cfg p.1 p.2 <;> simp [List.any_cons, hp, ih]

/-- A plan with nothing to do runs as its SKIP does (R190). -/
theorem runOps_orSkip (plan : List MicroOp) (s : State) : runOps (orSkip plan) s = runOps plan s := by
  cases plan <;> rfl

/-- After INIT a line plans the bits of its points (R220). -/
theorem planLine_drawn {s : State} (hinit : s.init = true) (x0 y0 x1 y1 : Int) :
    planLine x0 y0 x1 y1 s = orSkip (setOps (pointBits s.cfg (bresenhamPoints x0 y0 x1 y1))) := by
  rw [planLine, if_pos hinit, setOps, pointBits, List.map_map]; rfl

/-- Settles O14, by the run of the bits of the line's points (`runOps_setOps`). -/
theorem lineSetsItsPoints : Obligations.LineSetsItsPoints := by
  intro s x0 y0 x1 y1 hidle
  refine ⟨fun hinit => ?_, fun hinit => exec_skip hidle (by simp [planOf, planLine, hinit])⟩
  let points := bresenhamPoints x0 y0 x1 y1
  obtain ⟨m, hrun, hlookup⟩ := runOps_setOps (s := acceptCommand (.legal (.line x0 y0 x1 y1)) s)
    (pointBits_inside s.cfg points)
  have hexec : exec (.line x0 y0 x1 y1) s =
      runOps (setOps (pointBits s.cfg points)) (acceptCommand (.legal (.line x0 y0 x1 y1)) s) := by
    rw [exec_idle hidle, planOf, planLine_drawn hinit, runOps_orSkip]
  refine ⟨m, ?_, fun a ha => ?_, fun q hq hin => ?_⟩
  · rw [hexec, hrun, ← newAddrs_pointBits, ← not_isEmpty_pointBits]; rfl
  · refine (hlookup a).trans (if_neg fun hmem => ?_)
    obtain ⟨p, hp, hin, haddr⟩ := mem_map_fst_pointBits.1 hmem
    exact ha p hp hin haddr
  · refine ⟨_, (hlookup _).trans (if_pos (mem_map_fst_pointBits.2 ⟨q, hq, hin, rfl⟩)), fun j hj => ?_⟩
    rw [getLsbD_setBits _ _ _ hj, any_pointBits, ← firstFound_pointBits]; rfl

end Sys2Proof.Machine
end

section
/-! PROOFS. What the host sees of a running command: when `rdata` changes (R78, R267), a CMD write that waits (R263), and
a register read (R260, R261). -/

namespace Sys2Proof.Machine

/-! ### The micro-ops that write `rdata` -/

/-- The micro-op writes `rdata` (R190). -/
def setsRdata : MicroOp → Bool
  | .rdbit _ _ => true
  | .rdb _ => true
  | .setrd _ => true
  | _ => false

/-- Every other micro-op keeps `rdata` (R190). -/
theorem performOp_rdata {op : MicroOp} {s t : State} (h : performOp op s = .next t) (hop : setsRdata op = false) :
    t.rdata = s.rdata := by
  cases op with
  | rmw a k kind => obtain ⟨-, rfl⟩ := atByte_eq_next h; rw [rmwByte_eq]
  | wr a v => obtain ⟨-, rfl⟩ := atByte_eq_next h; rw [drawWrite_eq]
  | rdbit | rdb | setrd => cases hop
  | setinit | err | skip => injection h with h; subst h; rfl

theorem runOps_rdata {plan : List MicroOp} {s t : State} (h : runOps plan s = .next t)
    (hplan : ∀ op ∈ plan, setsRdata op = false) : t.rdata = s.rdata := by
  induction plan generalizing s with
  | nil => injection h with h; subst h; rfl
  | cons op rest ih =>
    obtain ⟨hop, hrest⟩ := List.forall_mem_cons.1 hplan
    obtain ⟨u, hu, ht⟩ := andThen_eq_next h
    exact (ih ht hrest).trans (performOp_rdata hu hop)

/-- A gated or clipped plan keeps `rdata` when the plan it guards does. -/
theorem guardedPlan_keepsRdata {p : Prop} [Decidable p] {plan : List MicroOp}
    (hplan : ∀ op ∈ plan, setsRdata op = false) : ∀ op ∈ (if p then plan else [.skip]), setsRdata op = false := by
  split
  · exact hplan
  · exact List.forall_mem_singleton.2 rfl

theorem orSkip_keepsRdata {plan : List MicroOp} (hplan : ∀ op ∈ plan, setsRdata op = false) :
    ∀ op ∈ orSkip plan, setsRdata op = false := by
  unfold orSkip
  split
  · exact List.forall_mem_singleton.2 rfl
  · exact hplan

theorem map_keepsRdata {α : Type} {f : α → MicroOp} (hf : ∀ a, setsRdata (f a) = false) (l : List α) :
    ∀ op ∈ l.map f, setsRdata op = false :=
  List.forall_mem_map.2 fun a _ => hf a

/-- The commands that do not read back plan no write of `rdata` (R190). -/
theorem planOf_keepsRdata {c : Command} (hpget : ∀ x y, c ≠ .legal (.pget x y)) (hrdbyte : ∀ i, c ≠ .legal (.rdbyte i))
    (s : State) : ∀ op ∈ planOf c s, setsRdata op = false := by
  have hpixel (kind : PixelKind) (x y : Int) : ∀ op ∈ planPixel kind x y s, setsRdata op = false :=
    guardedPlan_keepsRdata (List.forall_mem_singleton.2 rfl)
  cases c with
  | illegal h => exact List.forall_mem_singleton.2 rfl
  | legal i =>
    cases i with
    | nop => exact List.forall_mem_singleton.2 rfl
    | init => exact List.forall_mem_singleton.2 rfl
    | clear p => exact guardedPlan_keepsRdata (map_keepsRdata (fun _ => rfl) _)
    | pset x y => exact hpixel .set x y
    | preset x y => exact hpixel .clear x y
    | pflip x y => exact hpixel .flip x y
    | line x0 y0 x1 y1 => exact guardedPlan_keepsRdata (orSkip_keepsRdata (map_keepsRdata (fun _ => rfl) _))
    | digit g x y => exact guardedPlan_keepsRdata (map_keepsRdata (fun _ => rfl) _)
    | pget x y => exact absurd rfl (hpget x y)
    | rdbyte i => exact absurd rfl (hrdbyte i)

/-- Only the last micro-op of a command can write `rdata`: a command that reads back plans no other (R240, R243). -/
theorem dropLast_planOf_keepsRdata (c : Command) (s : State) : ∀ op ∈ (planOf c s).dropLast, setsRdata op = false := by
  have hsingle {p : Prop} [Decidable p] {op other : MicroOp} : (if p then [op] else [other]).dropLast = [] := by
    split <;> rfl
  by_cases hread : (∃ x y, c = .legal (.pget x y)) ∨ ∃ i, c = .legal (.rdbyte i)
  · have hnil : (planOf c s).dropLast = [] := by
      rcases hread with ⟨x, y, rfl⟩ | ⟨i, rfl⟩ <;> exact hsingle
    simp [hnil]
  · push Not at hread
    obtain ⟨hpget, hrdbyte⟩ := hread
    exact fun op hop => planOf_keepsRdata hpget hrdbyte s op (List.mem_of_mem_dropLast hop)

/-! ### A command under way, and its end -/

/-- Fewer draw steps than a busy draw unit has micro-ops leave it busy with the others, and with the earlier `rdata`
when no micro-op but the last writes it (R190, R267). -/
theorem drawSteps_underWay {plan : List MicroOp} {k : Nat} {s : State} (hbusy : s.busy = true) (hops : s.ops = plan)
    (hk : k < plan.length) (hinside : ∀ op ∈ plan, opInside s.cfg op = true)
    (hkeep : ∀ op ∈ plan.dropLast, setsRdata op = false) :
    ∃ t, drawSteps k s = .next t ∧ t.busy = true ∧ t.ops = plan.drop k ∧ t.rdata = s.rdata := by
  induction k generalizing s plan with
  | zero => exact ⟨s, rfl, hbusy, hops, rfl⟩
  | succ k ih =>
    match plan with
    | [] => exact absurd hk (Nat.not_lt_zero _)
    | [op] => exact absurd (Nat.lt_of_succ_lt_succ hk) (Nat.not_lt_zero _)
    | op :: next :: others =>
      obtain ⟨hop, hrest⟩ := List.forall_mem_cons.1 hinside
      obtain ⟨hopKeep, hrestKeep⟩ := List.forall_mem_cons.1 hkeep
      obtain ⟨u, hu⟩ := performOp_inside hop
      have hcfg : u.cfg = s.cfg := by rw [performOp_frame hu]
      have hkept : u.rdata = s.rdata := performOp_rdata hu hopKeep
      obtain ⟨t, ht, htbusy, htops, hrdata⟩ :=
        ih (s := leaveOps (next :: others) u) rfl rfl (Nat.lt_of_succ_lt_succ hk) (hcfg ▸ hrest) hrestKeep
      refine ⟨t, ?_, htbusy, htops, hrdata.trans hkept⟩
      rw [drawSteps, drawStep_busy hbusy hops, hu]
      exact ht

/-- An accepted command completes, and leaves the draw unit idle (R190). -/
theorem drawSteps_planOf {s : State} (hwf : s.cfg.wf) (c : Command) :
    ∃ t, drawSteps (planOf c s).length (acceptCommand c s) = .next t ∧
      runOps (planOf c s) (acceptCommand c s) = .next t ∧ t.busy = false ∧ t.ops = [] := by
  obtain ⟨t, ht⟩ := runOps_inside (s := acceptCommand c s) (planOf_inside c s)
  have hframe := runOps_frame ht
  have hsteps := drawSteps_busy (s := acceptCommand c s) rfl rfl (planOf_ne_nil hwf c)
  exact ⟨t, hsteps.trans ht, ht, by rw [hframe], by rw [hframe]⟩

/-- Accepting a command overwrites what the draw unit held, so its run is `exec` of an idle draw unit (R190). -/
theorem exec_forget_busy (i : Instr) (s : State) :
    exec i { s with busy := false } = runOps (planOf (.legal i) s) (acceptCommand (.legal i) s) := by
  rw [exec_idle rfl]
  cases i <;> rfl

/-- What PGET leaves in `rdata` (R240). -/
theorem runOps_pget_rdata {s t : State} {x y : Int}
    (h : runOps (planOf (.legal (.pget x y)) s) (acceptCommand (.legal (.pget x y)) s) = .next t) :
    t.rdata.toNat = if inRange s.cfg x y then ((readValue (byteAddr s.cfg x y) s).getLsbD (bitPos x)).toNat else 0 := by
  obtain ⟨hin, hout⟩ := pgetReadsOnePixel { s with busy := false } x y rfl
  rw [← exec_forget_busy] at h
  split
  case isTrue hrange =>
    obtain ⟨v, hexec, hv⟩ := hin (inRange_iff_bounds.1 hrange)
    obtain rfl := Host.Outcome.next.inj (hexec.symm.trans h)
    exact hv
  case isFalse hrange =>
    obtain rfl := Host.Outcome.next.inj ((hout (mt inRange_iff_bounds.2 hrange)).symm.trans h)
    rfl

/-- What RDBYTE leaves in `rdata` (R243). -/
theorem runOps_rdbyte_rdata {s t : State} {i : Nat}
    (h : runOps (planOf (.legal (.rdbyte i)) s) (acceptCommand (.legal (.rdbyte i)) s) = .next t) :
    t.rdata = if i < s.cfg.fbBytes then readValue i s else 0 := by
  obtain ⟨hin, hout⟩ := rdbyteReadsOneByte { s with busy := false } i rfl
  rw [← exec_forget_busy] at h
  split
  case isTrue hi =>
    obtain rfl := Host.Outcome.next.inj ((hin hi).symm.trans h)
    rfl
  case isFalse hi =>
    obtain rfl := Host.Outcome.next.inj ((hout (Nat.le_of_not_lt hi)).symm.trans h)
    rfl

/-- Settles O24: only a command's last micro-op can write `rdata` (`drawSteps_underWay`), and what the command leaves
there is what its plan's run leaves. -/
theorem rdataIsNewWhenNotBusy : Obligations.RdataIsNewWhenNotBusy := by
  intro c s hwf
  refine ⟨fun k hk => ?_, ?_⟩
  · exact drawSteps_underWay (s := acceptCommand c s) rfl rfl hk (planOf_inside c s) (dropLast_planOf_keepsRdata c s)
  · obtain ⟨t, hsteps, hrun, hbusy, hops⟩ := drawSteps_planOf hwf c
    refine ⟨t, hsteps, hbusy, hops, ?_, ?_, ?_⟩
    · rintro x y rfl
      exact runOps_pget_rdata hrun
    · rintro i rfl
      exact runOps_rdbyte_rdata hrun
    · exact fun hpget hrdbyte =>
        runOps_rdata (s := acceptCommand c s) hrun (planOf_keepsRdata hpget hrdbyte s)

/-! ### Accesses of the host -/

/-- A `.command` turn of a busy block is the host's access alone (R263; log entry 1). -/
theorem commandTurn_busy {s : State} (hbusy : s.busy = true) : commandTurn s = .next (hostStep s) := by
  have hguard (a : BitVec 3) : ¬(a = cmdAddr ∧ s.busy = false ∧ s.level = .line) := by simp [hbusy]
  unfold commandTurn
  split
  · exact if_neg (hguard _)
  · rfl

/-- Settles O33: with the draw unit busy, either turn is the host's access, which waits (`hostStep_wait`). -/
theorem cmdWriteWaitsWhileBusy : Obligations.CmdWriteWaitsWhileBusy := by
  intro s w t ts rest hwf hbusy hturns hturn hbus
  have hwait : hostStep { s with turns := ts } = { s with turns := ts } := hostStep_wait hbus hbusy
  rcases hturn with rfl | rfl
  · rw [step_host hwf hturns, hwait]
  · rw [step_turn hwf hturns, takeTurn, commandTurn_busy (s := { s with turns := ts }) hbusy, hwait]

/-- The word of a register does not depend on the turns to come (R261). -/
theorem regRead_setTurns (a : BitVec 3) (ts : List Turn) (s : State) :
    regRead a { s with turns := ts } = regRead a s := rfl

/-- Settles O34, by the read rule of a host access (`hostStep_read`). -/
theorem registerReadHasNoSideEffect : Obligations.RegisterReadHasNoSideEffect := by
  intro s a ts rest hwf hturns hbus
  have hbus' : ({ s with turns := ts } : State).hostBus = .read a :: rest := hbus
  rw [step_host hwf hturns, hostStep_read hbus', regRead_setTurns]

end Sys2Proof.Machine
end

section
/-! PROOFS. Errors and interrupts: an illegal command (R291, R292), the block that never stops (R290), the interrupt output
(R300), and an event and a clear in one cycle (R304). -/

namespace Sys2Proof.Machine

/-! ### Progress -/

/-- Settles O57: the next turn, listed or chosen, completes (`BlockInv.takeTurn_completes`). -/
theorem theBlockNeverStops : Obligations.TheBlockNeverStops := by
  intro s hs
  have hnext : BlockInv (nextTurn s).2 := by rw [nextTurn_frame]; exact hs.congr rfl
  obtain ⟨t, ht⟩ := hnext.takeTurn_completes (nextTurn s).1
  exact ⟨t, (if_pos hs.cfgOk).trans ht⟩

/-! ### The interrupt output -/

/-- A word is not zero when one of its bits is set. -/
theorem ne_zero_iff_exists_getLsbD {w : Nat} {x : BitVec w} : x ≠ 0#w ↔ ∃ k < w, x.getLsbD k = true := by
  constructor
  · intro hne
    by_contra! hclear
    exact hne (BitVec.eq_of_getLsbD_eq fun k hk => by simpa using hclear k hk)
  · rintro ⟨k, -, hk⟩ rfl
    simp at hk

/-- Settles O37: an enabled event is pending when a bit of `irq_pend & irq_en` is set. -/
theorem irqIsTheEnabledPending : Obligations.IrqIsTheEnabledPending := by
  intro s
  rw [irq, bne_iff_ne, ne_zero_iff_exists_getLsbD]
  simp only [BitVec.getLsbD_and, Bool.and_eq_true]

/-! ### An illegal command -/

/-- A command's words start with its header (R90, R91). -/
theorem take_asmLength_eq_cons (buf : Vector Word 5) :
    ∃ operands, buf.toList.take (asmLength buf) = buf.getD 0 0 :: operands := by
  obtain ⟨n, hn⟩ := Nat.exists_eq_succ_of_ne_zero (Nat.one_le_iff_ne_zero.1 (asmLength_bounds buf).1)
  have hheader : buf.toList = buf.getD 0 0 :: buf.toList.tail := by
    obtain ⟨⟨words⟩, hlen⟩ := buf
    cases words with
    | nil => simp at hlen
    | cons header rest => rfl
  rw [hn, hheader]
  exact ⟨_, rfl⟩

/-- An idle draw unit performs an illegal command as the one micro-op `ERR`, and holds no copy of its header then (R190,
R291). -/
theorem execCommand_illegal {s : State} (hidle : s.busy = false) (h : Word) :
    execCommand (.illegal h) s = .next { commandDone s with cmdErr := true } := by
  rw [execCommand_idle hidle]; rfl

/-- Settles O32: the words of an illegal header are an illegal command (`commandOf_illegal`), which is performed whole. -/
theorem illegalCommandSetsCmdErr : Obligations.IllegalCommandSetsCmdErr := by
  intro s w ts rest hwf hline hidle hturns hbus hlast hillegal
  have hcommand : commandOf ((asmStore w s).toList.take (asmLength (asmStore w s))) =
      .illegal ((asmStore w s).getD 0 0) := by
    obtain ⟨operands, hwords⟩ := take_asmLength_eq_cons (asmStore w s)
    rw [hwords, commandOf_illegal hillegal]
  have htaken := commandTurn_lastWord (s := { s with turns := ts }) hline hidle hbus hlast
  refine ⟨none, nofun, ?_⟩
  calc step s
    _ = commandTurn { s with turns := ts } := step_turn hwf hturns
    _ = execCommand (.illegal ((asmStore w s).getD 0 0))
          { s with turns := ts, hostBus := rest, asmBuf := asmStore w s, asmIdx := 0 } :=
        htaken.trans (congrArg (execCommand · _) hcommand)
    _ = _ := execCommand_illegal (s := { s with turns := ts, hostBus := rest, asmBuf := _, asmIdx := 0 }) hidle _

/-! ### An event and a clear in one cycle -/

/-- The events `ev` are pending (R40, R303). -/
def Pending (ev : BitVec 2) (s : State) : Prop := ∀ k, ev.getLsbD k = true → s.irqPend.getLsbD k = true

/-- TICK sets its events whatever was pending (R301 to R303). -/
theorem pending_startLine (c : Nat) (s : State) : Pending (tickEvents s.cfg c) (startLine c s) := by
  intro k hk
  rw [startLine_eq]
  simp [hk]

/-- The events of line `c`'s TICK, by their bits (R301, R302). -/
theorem Pending.tickEvents {cfg : Cfg} {c : Nat} {s : State} (h : Pending (tickEvents cfg c) s) :
    s.irqPend.getLsbD 0 = true ∧ (c = cfg.active → s.irqPend.getLsbD 1 = true) := by
  refine ⟨h 0 ?_, fun hc => h 1 ?_⟩
  · unfold Machine.tickEvents; split <;> rfl
  · rw [Machine.tickEvents, if_pos hc]; rfl

/-- The rest of the end of a cycle, after its TICK, leaves the pending events and the host's accesses alone. -/
theorem clockCycle_irqPend {s t : State} (h : clockCycle s = .next t) :
    ∃ a, cycleTick s = .next a ∧ t.irqPend = a.irqPend ∧ t.hostBus = a.hostBus := by
  obtain ⟨a, b, c, ha, hb, hc, rfl⟩ := clockCycle_eq_next h
  obtain ⟨n, -, hsteps⟩ := clockDraw_steps hc
  have hfinish : (clockFinish b).irqPend = b.irqPend ∧ (clockFinish b).hostBus = b.hostBus := by
    rcases clockFinish_cases b with ⟨heq, -⟩ | heq <;> rw [heq] <;> exact ⟨rfl, rfl⟩
  refine ⟨a, ha, ?_, ?_⟩ <;> rw [ageDraw_eq, drawSteps_frame hsteps]
  · exact hfinish.1.trans (by rw [clockRead_frame hb]; rfl)
  · exact hfinish.2.trans (by rw [clockRead_frame hb]; rfl)

/-- The cycle in progress has had its TICK, which set the events `ev`, and the host's accesses to come are `bus`. -/
structure HadTick (ev : BitVec 2) (bus : List HostAccess) (s : State) : Prop where
  inv : BlockInv s
  level_eq : s.level = .cycle
  stage : s.tickStage = .ticked
  bus_eq : s.hostBus = bus
  pending : Pending ev s

/-- The cycle has ended: the line's second cycle is next, the events `ev` are pending, and the host's accesses to come are
`bus`. -/
structure EndedPending (ev : BitVec 2) (bus : List HostAccess) (s : State) : Prop where
  bus_eq : s.hostBus = bus
  timer : s.lt = 1
  pending : Pending ev s

section
variable {ev : BitVec 2} {bus : List HostAccess} {s : State} {ts : List Turn}

theorem HadTick.setTurns (h : HadTick ev bus s) (ts : List Turn) : HadTick ev bus { s with turns := ts } :=
  ⟨h.inv.congr rfl, h.level_eq, h.stage, h.bus_eq, h.pending⟩

/-- A cycle has one TICK (R140). -/
theorem HadTick.cycleTick (h : HadTick ev bus s) : cycleTick s = .next s := if_neg fun hdue => hdue.2 h.stage

/-- A line has more than one cycle (R7 item 6). -/
theorem one_lt_lineCycles {cfg : Cfg} (hwf : cfg.wf) : 1 < cfg.lineCycles := by
  obtain ⟨-, ⟨-, heq, hlt, -⟩, -⟩ := hwf
  exact Nat.lt_of_le_of_lt heq hlt

/-- The TICK of a cycle that starts a line (R125, R140). -/
theorem BlockInv.cycleTick_of_tickDue (hs : BlockInv s) (hcycle : s.level = .cycle) (hdue : TickDue s) :
    ∃ a, Machine.cycleTick s = .next a ∧ HadTick (tickEvents s.cfg s.slc.toNat) s.hostBus a ∧ a.turns = s.turns := by
  obtain ⟨a, ha⟩ := hs.cycleTick_completes
  refine ⟨a, ha, ?_⟩
  have hinv := hs.cycleTick hcycle ha
  rcases cycleTick_eq_next ha with ⟨hnone, -⟩ | ⟨-, -, -, rfl⟩
  · exact absurd hdue hnone
  · have hbus : (startLine s.slc.toNat s).hostBus = s.hostBus := by rw [startLine_eq]
    have hturns : (startLine s.slc.toNat s).turns = s.turns := by rw [startLine_eq]
    exact ⟨⟨hinv, (cycleTick_level ha).trans hcycle, rfl, hbus, pending_startLine _ s⟩, hturns⟩

/-- What is pending after a cycle's TICK is pending when the cycle ends (R304). -/
theorem HadTick.clockCycle (h : HadTick ev bus s) : ∃ t, Machine.clockCycle s = .next t ∧ EndedPending ev bus t := by
  obtain ⟨t, ht⟩ := h.inv.clockCycle_completes h.level_eq
  obtain ⟨a, ha, hpend, hbus⟩ := clockCycle_irqPend ht
  obtain ⟨b, hb, hpart⟩ := clockCycle_clockPart ht
  obtain rfl := Host.Outcome.next.inj (h.cycleTick.symm.trans ha)
  obtain rfl := Host.Outcome.next.inj (h.cycleTick.symm.trans hb)
  obtain ⟨-, hticked, -⟩ := h.inv.clock
  have hzero : s.lt = 0 := (hticked h.stage).2
  have htimer : t.lt = 1 := by
    obtain ⟨-, -, -, -, -, hlt, -, -⟩ := ClockPart.mk.inj hpart
    calc t.lt
      _ = (s.lt + 1) % s.cfg.lineCycles := hlt
      _ = 1 := by rw [hzero, Nat.mod_eq_of_lt (one_lt_lineCycles h.inv.cfgOk)]
  exact ⟨t, ht, hbus.trans h.bus_eq, htimer, fun k hk => hpend ▸ h.pending k hk⟩

/-- The `.cycle` turn of a cycle that has had its TICK. -/
theorem HadTick.step_cycle (h : HadTick ev bus s) (hturns : s.turns = .cycle :: ts) :
    ∃ t, step s = .next t ∧ EndedPending ev bus t := by
  obtain ⟨t, ht, hended⟩ := (h.setTurns ts).clockCycle
  exact ⟨t, (step_turn h.inv.cfgOk hturns).trans ((if_pos h.level_eq).trans ht), hended⟩

/-- The `.cycle` turn of a cycle whose TICK no `.tick` turn took has that TICK first (R140). -/
theorem BlockInv.step_cycle_of_tickDue (hs : BlockInv s) (hcycle : s.level = .cycle) (hdue : TickDue s)
    (hturns : s.turns = .cycle :: ts) :
    ∃ t, step s = .next t ∧ EndedPending (tickEvents s.cfg s.slc.toNat) s.hostBus t := by
  have hs' : BlockInv { s with turns := ts } := hs.congr rfl
  obtain ⟨a, ha, hticked, -⟩ := hs'.cycleTick_of_tickDue hcycle hdue
  obtain ⟨t, ht, hended⟩ := hticked.clockCycle
  have hclock : Machine.clockCycle { s with turns := ts } = .next t := by
    rw [← ht, Machine.clockCycle, Machine.clockCycle, ha, hticked.cycleTick]
  exact ⟨t, (step_turn hs.cfgOk hturns).trans ((if_pos hcycle).trans hclock), hended⟩

/-- The `.tick` turn of a cycle that starts a line (R140). -/
theorem BlockInv.step_tick_of_tickDue (hs : BlockInv s) (hcycle : s.level = .cycle) (hdue : TickDue s)
    (hturns : s.turns = .tick :: ts) :
    ∃ a, step s = .next a ∧ HadTick (tickEvents s.cfg s.slc.toNat) s.hostBus a ∧ a.turns = ts := by
  have hs' : BlockInv { s with turns := ts } := hs.congr rfl
  obtain ⟨a, ha, hticked, hrest⟩ := hs'.cycleTick_of_tickDue hcycle hdue
  have hturn : Machine.takeTurn .tick { s with turns := ts } = Machine.cycleTick { s with turns := ts } := by
    simp only [Machine.takeTurn, Machine.tickStep, hcycle]
  exact ⟨a, (step_turn hs.cfgOk hturns).trans (hturn.trans ha), hticked, hrest⟩

end

/-- Settles O50: before the TICK the clear is made and the TICK then sets its events; after the TICK it is put off, so the
events it would clear stay. -/
theorem eventWinsOverClear : Obligations.EventWinsOverClear := by
  intro s d ts rest hs hcycle hlt hstage hbus e he hturns
  suffices h : ∃ t, Host.Core.run Sys2Proof.core (e.1.length + 1) s = .next t ∧
      EndedPending (tickEvents s.cfg s.slc.toNat) e.2 t by
    obtain ⟨t, hrun, hended⟩ := h
    exact ⟨t, hrun, hended.bus_eq, hended.timer, hended.pending.tickEvents⟩
  have hdue : TickDue s := ⟨hlt, hstage⟩
  have clearInTime {ts' : List Turn} (h : s.turns = .host :: ts') :
      ∃ p, step s = .next { s with turns := ts', hostBus := rest, irqPend := p } := by
    obtain ⟨inTime, -⟩ := registerWrites s 3 d ts' rest hs.cfgOk h hbus
    obtain ⟨p, hclear, -⟩ := inTime rfl hstage
    exact ⟨p, hclear⟩
  have cleared (ts' : List Turn) (p : BitVec 2) :
      BlockInv { s with turns := ts', hostBus := rest, irqPend := p } := hs.congr rfl
  simp only [List.mem_cons, List.not_mem_nil, or_false] at he
  rcases he with rfl | rfl | rfl
  case inl =>
    obtain ⟨p, hclear⟩ := clearInTime hturns
    obtain ⟨t, hend, hended⟩ := (cleared (.cycle :: ts) p).step_cycle_of_tickDue hcycle hdue rfl
    exact ⟨t, (run_succ hclear 1).trans (run_succ hend 0), hended⟩
  case inr.inl =>
    obtain ⟨p, hclear⟩ := clearInTime hturns
    obtain ⟨a, htick, hticked, hrest⟩ := (cleared (.tick :: .cycle :: ts) p).step_tick_of_tickDue hcycle hdue rfl
    obtain ⟨t, hend, hended⟩ := hticked.step_cycle hrest
    exact ⟨t, (run_succ hclear 2).trans ((run_succ htick 1).trans (run_succ hend 0)), hended⟩
  case inr.inr =>
    obtain ⟨a, htick, hticked, hrest⟩ := hs.step_tick_of_tickDue hcycle hdue hturns
    obtain ⟨-, tooLate, -⟩ :=
      registerWrites a 3 d (.cycle :: ts) rest hticked.inv.cfgOk hrest (hticked.bus_eq.trans hbus)
    have hlate := tooLate rfl hticked.stage
    obtain ⟨t, hend, hended⟩ := (hticked.setTurns (.cycle :: ts)).step_cycle rfl
    exact ⟨t, (run_succ htick 2).trans ((run_succ hlate 1).trans (run_succ hend 0)), hbus ▸ hended⟩

end Sys2Proof.Machine
end

section
/-! PROOFS. A cycle of reset (R46, R330, R331), and the temporal partition (R350): the draw unit raises `OVERLAP` on
active lines alone, and by writes alone. -/

namespace Sys2Proof.Machine

/-- Settles O54: the values are those of the state after reset. -/
theorem heldResetResetsEverything : Obligations.HeldResetResetsEverything := by
  intro s ts hwf hturns
  exact ⟨resetBlock { s with turns := ts }, step_turn hwf hturns, rfl, rfl, irq_afterReset s.cfg, rfl⟩

/-! ### Micro-ops that cannot raise `OVERLAP` -/

/-- No micro-op of `plan` raises `OVERLAP`: the line in progress is not active, or none of them writes (R194, R293). -/
def NoOverlap (plan : List MicroOp) (s : State) : Prop :=
  s.phase = .activePicture → ∀ op ∈ plan, opWrites op = false

/-- A plan that raises no `OVERLAP` keeps the flag with its first micro-op, and the rest of it raises none either. -/
theorem NoOverlap.performOp {op : MicroOp} {rest : List MicroOp} {s t : State} (hplan : NoOverlap (op :: rest) s)
    (h : performOp op s = .next t) : t.overlap = s.overlap ∧ NoOverlap rest t := by
  obtain ⟨hover, -, -⟩ := overlapExactlyOnActiveWrites op s t h
  have hphase : t.phase = s.phase := by rw [performOp_frame h]
  refine ⟨?_, fun hactive o ho => hplan (hphase ▸ hactive) o (List.mem_cons_of_mem _ ho)⟩
  by_cases hactive : s.phase = .activePicture
  · rw [hover, hplan hactive op (List.mem_cons_self ..), Bool.false_and, Bool.or_false]
  · rw [hover, decide_eq_false hactive, Bool.and_false, Bool.or_false]

theorem NoOverlap.runOps {plan : List MicroOp} {s t : State} (hplan : NoOverlap plan s) (h : runOps plan s = .next t) :
    t.overlap = s.overlap := by
  induction plan generalizing s with
  | nil => injection h with h; subst h; rfl
  | cons op rest ih =>
    obtain ⟨u, hu, ht⟩ := andThen_eq_next h
    obtain ⟨hover, hrest⟩ := hplan.performOp hu
    exact (ih hrest ht).trans hover

/-- A draw step performs the first micro-op that the draw unit holds, and leaves it the rest (R190). -/
theorem NoOverlap.drawStep {s t : State} (hops : NoOverlap s.ops s) (h : drawStep s = .next t) :
    t.overlap = s.overlap ∧ NoOverlap t.ops t := by
  rcases drawStep_cases h with ⟨-, rfl⟩ | ⟨-, -, rfl⟩ | ⟨op, rest, u, -, heq, hu, rfl⟩
  · exact ⟨rfl, hops⟩
  · exact ⟨rfl, fun _ => nofun⟩
  · rw [heq] at hops
    obtain ⟨hover, hrest⟩ := hops.performOp hu
    exact ⟨hover, hrest⟩

theorem NoOverlap.drawSteps {n : Nat} {s t : State} (hops : NoOverlap s.ops s) (h : drawSteps n s = .next t) :
    t.overlap = s.overlap := by
  induction n generalizing s with
  | zero => injection h with h; subst h; rfl
  | succ n ih =>
    obtain ⟨u, hu, ht⟩ := andThen_eq_next h
    obtain ⟨hover, hrest⟩ := hops.drawStep hu
    exact (ih hrest ht).trans hover

/-! ### The command of a `.command` turn -/

/-- What a command plans depends on the configuration and on `init` alone (R190, R193). -/
theorem planOf_congr {s t : State} (hcfg : t.cfg = s.cfg) (hinit : t.init = s.init) (c : Command) :
    planOf c t = planOf c s := by
  have hpixel (kind : PixelKind) (x y : Int) : planPixel kind x y t = planPixel kind x y s := by
    unfold planPixel; rw [hcfg, hinit]
  cases c with
  | illegal h => rfl
  | legal i =>
    cases i with
    | nop => rfl
    | init => rfl
    | clear p => simp only [planOf, planClear, hcfg, hinit]
    | pset x y => exact hpixel .set x y
    | preset x y => exact hpixel .clear x y
    | pflip x y => exact hpixel .flip x y
    | line x0 y0 x1 y1 => simp only [planOf, planLine, hcfg, hinit]
    | digit g x y => simp only [planOf, planDigit, hcfg, hinit]
    | pget x y => simp only [planOf, planPget, hcfg]
    | rdbyte i => simp only [planOf, planRdbyte, hcfg]

/-- The host's next access is the word `w`, which completes a command that a `.command` turn performs whole (R262; log
entry 1). -/
structure CompletesCommand (w : Word) (rest : List HostAccess) (s : State) : Prop where
  line : s.level = .line
  idle : s.busy = false
  bus : s.hostBus = .write cmdAddr w :: rest
  last : s.asmIdx.toNat + 1 = asmLength (asmStore w s)

/-- The command that the word `w` completes (R96, R262). -/
def completedCommand (w : Word) (s : State) : Command :=
  commandOf ((asmStore w s).toList.take (asmLength (asmStore w s)))

/-- Any other `.command` turn is the host's access alone (log entry 1). -/
theorem commandTurn_access {s : State} (h : ∀ w rest, ¬CompletesCommand w rest s) :
    commandTurn s = .next (hostStep s) := by
  unfold commandTurn
  split
  · rename_i a d rest hbus
    split
    · rename_i hcmd
      obtain ⟨rfl, hidle, hline⟩ := hcmd
      have hinner : s.asmIdx.toNat + 1 ≠ asmLength (asmStore d s) :=
        fun hlast => h d rest ⟨hline, hidle, hbus, hlast⟩
      rw [takeWord_more (s := { s with hostBus := rest }) hinner, hostStep_cmd hbus hidle,
        writeCmd_more (s := { s with hostBus := rest }) hinner]
    · rfl
  · rfl

/-- The command that the host's word completes is the one whose micro-ops `comingOps` gives. -/
theorem CompletesCommand.comingOps_eq {w : Word} {rest : List HostAccess} {s : State} (h : CompletesCommand w rest s) :
    comingOps s = planOf (completedCommand w s) s := by
  simp only [comingOps, h.bus, h.idle, h.line, and_self, if_true, takeWord_last h.last]
  exact planOf_congr rfl rfl _

/-- Its micro-ops run on the state with the word taken (R190, R262). -/
theorem CompletesCommand.commandTurn_eq {w : Word} {rest : List HostAccess} {s : State}
    (h : CompletesCommand w rest s) :
    ∃ u, u.phase = s.phase ∧ u.overlap = s.overlap ∧
      commandTurn s = runOps (planOf (completedCommand w s) s) u := by
  let taken : State := { s with hostBus := rest, asmBuf := asmStore w s, asmIdx := 0 }
  have hplan : planOf (completedCommand w s) taken = planOf (completedCommand w s) s := planOf_congr rfl rfl _
  refine ⟨acceptCommand (completedCommand w s) taken, rfl, rfl, ?_⟩
  rw [commandTurn_lastWord h.line h.idle h.bus h.last, ← hplan]
  exact execCommand_idle (s := taken) h.idle _

/-! ### The turns that draw -/

/-- A `.command` turn keeps the flag when the command it performs whole, if it performs one, raises none. -/
theorem commandTurn_overlap {s t : State}
    (hplan : ∀ w rest, CompletesCommand w rest s → NoOverlap (planOf (completedCommand w s) s) s)
    (h : commandTurn s = .next t) : t.overlap = s.overlap := by
  by_cases hwhole : ∃ w rest, CompletesCommand w rest s
  · obtain ⟨w, rest, hw⟩ := hwhole
    obtain ⟨u, hphase, hover, hrun⟩ := hw.commandTurn_eq
    have hquiet : NoOverlap (planOf (completedCommand w s) s) u := fun hactive => hplan w rest hw (hphase ▸ hactive)
    exact (hquiet.runOps (hrun.symm.trans h)).trans hover
  · push Not at hwhole
    rw [commandTurn_access hwhole] at h
    injection h with h
    subst h
    obtain ⟨-, -, -, hover⟩ := hostStep_sameDrawn s
    exact hover

/-- The draw unit's turn. -/
theorem NoOverlap.drawTurn {s t : State} (hops : NoOverlap s.ops s) (h : drawTurn s = .next t) :
    t.overlap = s.overlap := by
  rcases drawTurn_cases h with rfl | ⟨-, hstep⟩
  · rfl
  · exact (hops.drawStep hstep).1

/-- The TICK of a cycle leaves the micro-ops alone, and the phase it leaves is the old one or that of the line it starts
(R125, R140). -/
theorem cycleTick_ops_phase {s t : State} (h : cycleTick s = .next t) :
    t.ops = s.ops ∧ (t.phase = s.phase ∨ TickDue s ∧ t.phase = phaseOf s.cfg s.slc.toNat) := by
  rcases cycleTick_eq_next h with ⟨-, rfl⟩ | ⟨hlt, hstage, -, rfl⟩
  · exact ⟨rfl, .inl rfl⟩
  · rw [startLine_eq]
    exact ⟨rfl, .inr ⟨⟨hlt, hstage⟩, rfl⟩⟩

/-- Between its TICK and the draw unit's part, the end of a cycle leaves the micro-ops and the phase alone. -/
theorem clockFinish_ops_phase {a b : State} (h : clockRead (driveOutputs a) = .next b) :
    (clockFinish b).ops = a.ops ∧ (clockFinish b).phase = a.phase := by
  have hread : b.ops = a.ops ∧ b.phase = a.phase := by rw [clockRead_frame h]; exact ⟨rfl, rfl⟩
  rcases clockFinish_cases b with ⟨heq, -⟩ | heq <;> rw [heq] <;> exact hread

/-- The end of a cycle keeps the flag when, on an active line, be it the one that its own TICK starts, the draw unit
holds no micro-op that writes. -/
theorem clockCycle_overlap {s t : State}
    (hops : s.phase = .activePicture ∨ (TickDue s ∧ phaseOf s.cfg s.slc.toNat = .activePicture) →
      ∀ op ∈ s.ops, opWrites op = false)
    (h : clockCycle s = .next t) : t.overlap = s.overlap := by
  obtain ⟨a, b, c, ha, hb, hc, rfl⟩ := clockCycle_eq_next h
  obtain ⟨n, -, hsteps⟩ := clockDraw_steps hc
  obtain ⟨hopsA, hphaseA⟩ := cycleTick_ops_phase ha
  obtain ⟨hopsB, hphaseB⟩ := clockFinish_ops_phase hb
  have hquiet : NoOverlap (clockFinish b).ops (clockFinish b) := by
    intro hactive
    rw [hphaseB] at hactive
    rw [hopsB, hopsA]
    refine hops (hphaseA.imp (fun hsame => ?_) fun ⟨hdue, hstarted⟩ => ⟨hdue, ?_⟩)
    · exact hsame.symm.trans hactive
    · exact hstarted.symm.trans hactive
  have hread : SameDrawn a b := clockRead_sameDrawn (s := driveOutputs a) hb
  obtain ⟨-, -, -, hbefore⟩ := ((cycleTick_sameDrawn ha).trans hread).trans (clockFinish_sameDrawn b)
  obtain ⟨-, -, -, hafter⟩ := ageDraw_sameDrawn c
  calc (ageDraw c).overlap
    _ = c.overlap := hafter
    _ = (clockFinish b).overlap := hquiet.drawSteps hsteps
    _ = s.overlap := hbefore

/-- Settles O60: of the turns only a draw turn, a whole command and the end of a cycle perform micro-ops, and in each
the partition leaves none that writes on an active line. -/
theorem partitionKeepsOverlapClear : Obligations.PartitionKeepsOverlapClear := by
  intro s t hclear hkept h
  obtain ⟨-, hturn⟩ := step_eq_next h
  rw [nextTurn_frame] at hturn
  generalize hnext : (nextTurn s).1 = turn at hturn
  cases turn with
  | rst =>
    injection hturn with hturn
    subst hturn
    rfl
  | host =>
    injection hturn with hturn
    subst hturn
    obtain ⟨-, -, -, hover⟩ := hostStep_sameDrawn { s with turns := _, choices := _ }
    exact hover.trans hclear
  | command =>
    refine (commandTurn_overlap (fun w rest hw hactive => ?_) hturn).trans hclear
    have hwhole : CompletesCommand w rest s := ⟨hw.line, hw.idle, hw.bus, hw.last⟩
    have hquiet := (hkept (.inl hactive)).2 hnext
    rw [hwhole.comingOps_eq, ← planOf_congr (s := s) rfl rfl] at hquiet
    exact hquiet
  | draw =>
    refine (NoOverlap.drawTurn ?_ hturn).trans hclear
    exact fun hactive => (hkept (.inl hactive)).1
  | tick =>
    obtain ⟨-, -, -, hover⟩ := tickStep_sameDrawn hturn
    exact hover.trans hclear
  | serial =>
    obtain ⟨-, -, -, hover⟩ := serialStep_sameDrawn hturn
    exact hover.trans hclear
  | cycle =>
    rcases cycleStep_cases hturn with ⟨-, rfl⟩ | ⟨-, hclock⟩
    · exact hclear
    · refine (clockCycle_overlap (fun hactive => ?_) hclock).trans hclear
      exact (hkept (hactive.imp_right fun ⟨hdue, hphase⟩ => ⟨hnext, hdue.1, hdue.2, hphase⟩)).1

end Sys2Proof.Machine
end

section
/-! PROOFS. Every cycle-level run is a line-level run (R345): each step of the clock's level is some turns of the line
level. -/

namespace Sys2Proof.Machine

/-- The line level's view of `s`, with the turns still to come. -/
def atLine (ts : List Turn) (s : State) : State := { lineView s with turns := ts }

/-- Some turns of the line level lead from what that level sees of `s` to what it sees of `t`, whatever turns follow. -/
def LineRun (s t : State) : Prop :=
  ∃ ts, ∀ rest, Host.Core.run Sys2Proof.core ts.length (atLine (ts ++ rest) s) = .next (atLine rest t)

section
variable {s t u : State}

/-- What the line level does not see takes it no turn. -/
theorem LineRun.of_view (h : lineView s = lineView t) : LineRun s t :=
  ⟨[], fun rest => by rw [List.nil_append, atLine, h]; rfl⟩

theorem LineRun.refl (s : State) : LineRun s s := .of_view rfl

theorem LineRun.trans (h : LineRun s t) (h' : LineRun t u) : LineRun s u := by
  obtain ⟨ts, hts⟩ := h
  obtain ⟨ts', hts'⟩ := h'
  refine ⟨ts ++ ts', fun rest => ?_⟩
  rw [List.append_assoc, List.length_append, run_add (hts (ts' ++ rest)), hts' rest]

/-- One turn of the line level. -/
theorem LineRun.turn (hwf : s.cfg.wf) (turn : Turn)
    (h : ∀ rest, takeTurn turn (atLine rest s) = .next (atLine rest t)) : LineRun s t :=
  ⟨[turn], fun rest => by
    have hstep : step (atLine (turn :: rest) s) = .next (atLine rest t) :=
      (step_turn (s := atLine (turn :: rest) s) hwf rfl).trans (h rest)
    exact run_succ hstep 0⟩

/-! ### The draw unit -/

/-- A micro-op reads and writes nothing that the line level does not see (R190). -/
theorem performOp_atLine {op : MicroOp} (h : performOp op s = .next t) (ts : List Turn) :
    performOp op (atLine ts s) = .next (atLine ts t) := by
  rcases performOp_cases h with ⟨a, k, kind, rfl, ha, rfl⟩ | ⟨a, v, rfl, ha, rfl⟩ | ⟨rfl, rfl⟩ | ⟨a, k, rfl, ha, rfl⟩ |
    ⟨a, rfl, ha, rfl⟩ | ⟨v, rfl, rfl⟩ | ⟨w, rfl, rfl⟩ | ⟨rfl, rfl⟩
  · exact (atByte_inside (s := atLine ts s) ha).trans (by rw [rmwByte_eq, rmwByte_eq]; rfl)
  · exact (atByte_inside (s := atLine ts s) ha).trans (by rw [drawWrite_eq, drawWrite_eq]; rfl)
  · rfl
  · exact (atByte_inside (s := atLine ts s) ha).trans (by rw [rdataFromBit_eq, rdataFromBit_eq]; rfl)
  · exact (atByte_inside (s := atLine ts s) ha).trans (by rw [rdataFromByte_eq, rdataFromByte_eq]; rfl)
  · rfl
  · rfl
  · rfl

theorem drawStep_atLine (h : drawStep s = .next t) (ts : List Turn) :
    drawStep (atLine ts s) = .next (atLine ts t) := by
  rcases drawStep_cases h with ⟨hidle, rfl⟩ | ⟨hbusy, hops, rfl⟩ | ⟨op, rest, u, hbusy, hops, hu, rfl⟩
  · exact if_neg (by simp [atLine, lineView, hidle])
  · simp only [drawStep, atLine, lineView, hbusy, hops, if_true]; rfl
  · rw [drawStep_busy (s := atLine ts s) hbusy hops, performOp_atLine hu]; rfl

theorem LineRun.drawStep (hwf : s.cfg.wf) (h : drawStep s = .next t) : LineRun s t :=
  .turn hwf .draw fun rest => drawStep_atLine h rest

theorem LineRun.drawSteps {n : Nat} (hwf : s.cfg.wf) (h : drawSteps n s = .next t) : LineRun s t := by
  induction n generalizing s with
  | zero => injection h with h; subst h; exact .refl s
  | succ n ih =>
    obtain ⟨u, hu, ht⟩ := andThen_eq_next h
    have hcfg : u.cfg = s.cfg := by rw [drawStep_frame hu]
    exact (LineRun.drawStep hwf hu).trans (ih (hcfg ▸ hwf) ht)

theorem LineRun.drawTurn (hwf : s.cfg.wf) (h : drawTurn s = .next t) : LineRun s t := by
  rcases drawTurn_cases h with rfl | ⟨-, hstep⟩
  · exact .refl _
  · exact .drawStep hwf hstep

/-! ### The host -/

theorem writeCmd_atLine (w : Word) (s : State) (ts : List Turn) :
    writeCmd w (atLine ts s) = atLine ts (writeCmd w s) := by
  by_cases hlast : s.asmIdx.toNat + 1 = asmLength (asmStore w s)
  · rw [writeCmd_last hlast, writeCmd_last (s := atLine ts s) hlast, acceptCommand, acceptCommand,
      planOf_congr (s := { s with asmBuf := asmStore w s, asmIdx := 0 }) rfl rfl]
    rfl
  · rw [writeCmd_more hlast, writeCmd_more (s := atLine ts s) hlast]; rfl

theorem writeOther_atLine (a : BitVec 3) (d : Word) (s : State) (ts : List Turn) :
    writeOther a d (atLine ts s) = atLine ts (writeOther a d s) := by
  unfold writeOther
  split <;> rfl

/-- At the line level no access comes too late for its cycle (log entry 9). -/
theorem nextCycles_atLine (a : BitVec 3) (ts : List Turn) (s : State) : nextCycles a (atLine ts s) = false := by
  simp [nextCycles, atLine, lineView]

/-- An access of the host is the same access at the line level, and one that waits there takes no turn (R263, R304). -/
theorem LineRun.hostStep (hwf : s.cfg.wf) : LineRun s (hostStep s) := by
  cases hbus : s.hostBus with
  | nil => rw [hostStep_nil hbus]; exact .refl s
  | cons access rest =>
    cases access with
    | read a =>
      rw [hostStep_read hbus]
      exact .turn hwf .host fun ts => congrArg _ (hostStep_read (s := atLine ts s) hbus)
    | write a d =>
      by_cases ha : a = cmdAddr
      · subst ha
        cases hbusy : s.busy with
        | true => rw [hostStep_wait hbus hbusy]; exact .refl s
        | false =>
          rw [hostStep_cmd hbus hbusy]
          exact .turn hwf .host fun ts => congrArg _
            ((hostStep_cmd (s := atLine ts s) hbus hbusy).trans (writeCmd_atLine d { s with hostBus := rest } ts))
      · cases hlate : nextCycles a s with
        | true => rw [hostStep_late hbus ha hlate]; exact .refl s
        | false =>
          rw [hostStep_other hbus ha hlate]
          exact .turn hwf .host fun ts => congrArg _
            ((hostStep_other (s := atLine ts s) hbus ha (nextCycles_atLine a ts s)).trans
              (writeOther_atLine a d { s with hostBus := rest } ts))

/-! ### The timing controller and the serializer -/

/-- The TICK of a cycle finds the serializer idle, as the line level's TICK asks (R126, R140, R179). -/
theorem LineRun.cycleTick (hs : BlockInv s) (hcycle : s.level = .cycle) (h : cycleTick s = .next t) : LineRun s t := by
  rcases cycleTick_eq_next h with ⟨-, rfl⟩ | ⟨hlt, hstage, hslc, rfl⟩
  · exact .refl _
  · have hidle := hs.serBusy_of_tickDue hcycle ⟨hlt, hstage⟩
    refine .turn hs.cfgOk .tick fun rest => ?_
    refine (if_pos (show (atLine rest s).serBusy = false from hidle)).trans ?_
    refine (tick_of_lt (s := atLine rest s) hslc).trans ?_
    rw [startLine_eq, startLine_eq]; rfl

theorem serReadByte_atLine (h : serReadByte s = .next t) (ts : List Turn) :
    serReadByte (atLine ts s) = .next (atLine ts t) := by
  rcases serReadByte_cases h with ⟨hdark, rfl⟩ | ⟨hlit, hinside, rfl⟩
  · exact if_pos hdark
  · refine (if_neg (by simp [atLine, lineView, hlit])).trans ((atByte_inside (s := atLine ts s) hinside).trans ?_)
    rw [readByte_eq]; rfl

theorem LineRun.serReadByte (hwf : s.cfg.wf) (hbusy : s.serBusy = true) (hidx : s.serIdx < s.cfg.rowBytes)
    (h : serReadByte s = .next t) : LineRun s t :=
  .turn hwf .serial fun rest => (if_pos hbusy).trans ((if_pos hidx).trans (serReadByte_atLine h rest))

theorem LineRun.serFinish (hwf : s.cfg.wf) (hbusy : s.serBusy = true) (hall : s.serIdx = s.cfg.rowBytes) :
    LineRun s (serFinish s) :=
  .turn hwf .serial fun _ => (if_pos hbusy).trans ((if_neg (Nat.not_lt.2 hall.ge)).trans (if_pos ⟨hall, rfl⟩))

theorem LineRun.serialStep (hwf : s.cfg.wf) (h : serialStep s = .next t) : LineRun s t := by
  rcases serialStep_cases h with rfl | ⟨hbusy, hidx, hread⟩ | ⟨hbusy, hall, -, rfl⟩
  · exact .refl _
  · exact .serReadByte hwf hbusy hidx hread
  · exact .serFinish hwf hbusy hall

/-! ### The clock and reset -/

theorem LineRun.clockRead (hwf : s.cfg.wf) (h : clockRead s = .next t) : LineRun s t := by
  rcases clockRead_cases h with ⟨-, rfl⟩ | ⟨hdue, hread⟩
  · exact .refl _
  · obtain ⟨hbusy, hidx, -⟩ := readDue_iff.1 hdue
    exact .serReadByte hwf hbusy hidx hread

/-- The clock ends a line as the serializer's last turn does (R166, R179). -/
theorem LineRun.clockFinish (hwf : s.cfg.wf) : LineRun s (clockFinish s) := by
  unfold Machine.clockFinish
  split
  · rename_i hend
    obtain ⟨hbusy, hlast⟩ := Bool.and_eq_true_iff.1 hend
    exact .serFinish hwf hbusy (of_decide_eq_true hlast).1
  · exact .refl s

theorem LineRun.clockDraw (hwf : s.cfg.wf) (h : clockDraw s = .next t) : LineRun s t := by
  obtain ⟨n, -, hsteps⟩ := clockDraw_steps h
  exact .drawSteps hwf hsteps

/-- The end of a cycle is, to the line level, its TICK, its read, its end of a line and its draw steps (R140). -/
theorem LineRun.clockCycle (hs : BlockInv s) (hcycle : s.level = .cycle) (h : clockCycle s = .next t) :
    LineRun s t := by
  obtain ⟨a, b, c, ha, hb, hc, rfl⟩ := clockCycle_eq_next h
  have hinvA : BlockInv (driveOutputs a) := (hs.cycleTick hcycle ha).congr rfl
  have hinvB : BlockInv b := hinvA.clockRead hb
  have houtputs : LineRun a (driveOutputs a) := .of_view rfl
  have htimer : LineRun c (advanceTimer (ageDraw c)) := .of_view (by rw [ageDraw_eq]; rfl)
  exact ((LineRun.cycleTick hs hcycle ha).trans houtputs).trans <|
    (LineRun.clockRead hinvA.cfgOk hb).trans <| (LineRun.clockFinish hinvB.cfgOk).trans <|
    (LineRun.clockDraw hinvB.clockFinish.cfgOk hc).trans htimer

/-- Reset leaves the two levels nothing to differ in (R330). -/
theorem LineRun.resetBlock (hwf : s.cfg.wf) : LineRun s (resetBlock s) :=
  .turn hwf .rst fun _ => rfl

/-! ### The step -/

/-- Every turn of the cycle level is some turns of the line level (R345). -/
theorem LineRun.takeTurn {turn : Turn} (hs : BlockInv s) (hcycle : s.level = .cycle)
    (h : takeTurn turn s = .next t) : LineRun s t := by
  cases turn with
  | host => injection h with h; subst h; exact .hostStep hs.cfgOk
  | command =>
    rcases commandTurn_cases h with rfl | ⟨hline, -⟩
    · exact .hostStep hs.cfgOk
    · simp [hcycle] at hline
  | draw => exact .drawTurn hs.cfgOk h
  | tick =>
    rcases tickStep_cases h with ⟨hline, -⟩ | ⟨-, htick⟩
    · simp [hcycle] at hline
    · exact .cycleTick hs hcycle htick
  | serial => exact .serialStep hs.cfgOk h
  | cycle =>
    rcases cycleStep_cases h with ⟨hline, -⟩ | ⟨-, hclock⟩
    · simp [hcycle] at hline
    · exact .clockCycle hs hcycle hclock
  | rst => injection h with h; subst h; exact .resetBlock hs.cfgOk

/-- No turn of the cycle level leaves it (log entry 5). -/
theorem takeTurn_cycleLevel {turn : Turn} (hcycle : s.level = .cycle) (h : takeTurn turn s = .next t) :
    t.level = .cycle := by
  have hkept (hpart : clockPart t = clockPart s) : t.level = .cycle := (congrArg ClockPart.level hpart).trans hcycle
  cases turn with
  | host => injection h with h; subst h; exact hkept (clockPart_hostStep s)
  | command => exact hkept (clockPart_commandTurn hcycle h)
  | draw => exact hkept (clockPart_drawTurn h)
  | tick =>
    rcases tickStep_cases h with ⟨hline, -⟩ | ⟨-, htick⟩
    · simp [hcycle] at hline
    · exact (cycleTick_level htick).trans hcycle
  | serial => exact hkept (clockPart_serialStep h)
  | cycle =>
    rcases cycleStep_cases h with ⟨-, rfl⟩ | ⟨-, hclock⟩
    · exact hcycle
    · obtain ⟨a, ha, hpart⟩ := clockCycle_clockPart hclock
      exact (congrArg ClockPart.level hpart).trans ((cycleTick_level ha).trans hcycle)
  | rst => injection h with h; subst h; exact hcycle

/-- A step of the cycle level, whether its turn is listed or chosen. -/
theorem LineRun.step (hs : BlockInv s) (hcycle : s.level = .cycle) (h : step s = .next t) :
    LineRun s t ∧ t.level = .cycle := by
  obtain ⟨-, hturn⟩ := step_eq_next h
  have hs' : BlockInv (nextTurn s).2 := by rw [nextTurn_frame]; exact hs.congr rfl
  have hcycle' : (nextTurn s).2.level = .cycle := by rw [nextTurn_frame]; exact hcycle
  have htaken : LineRun s (nextTurn s).2 := .of_view (by rw [nextTurn_frame]; rfl)
  exact ⟨htaken.trans (.takeTurn hs' hcycle' hturn), takeTurn_cycleLevel hcycle' hturn⟩

/-- A run that answers a next state did so in its first step and in the rest. -/
theorem run_succ_eq_next {n : Nat} (h : Host.Core.run Sys2Proof.core (n + 1) s = .next t) :
    ∃ u, step s = .next u ∧ Host.Core.run Sys2Proof.core n u = .next t := by
  simp only [Host.Core.run] at h
  split at h
  · exact ⟨_, ‹_›, h⟩
  · cases h
  · cases h

end

/-- Settles O52: the steps of the run are line-level runs one after another (`LineRun.step`), and the invariant holds
between them. -/
theorem cycleLevelIsALineLevelRun : Obligations.CycleLevelIsALineLevelRun := by
  intro n s t hs hcycle h
  suffices hrun : LineRun s t by
    obtain ⟨ts, hts⟩ := hrun
    have hlast := hts []
    rw [List.append_nil] at hlast
    exact ⟨ts, atLine [] t, hlast, rfl⟩
  induction n generalizing s with
  | zero => injection h with h; subst h; exact .refl s
  | succ n ih =>
    obtain ⟨u, hstep, hrest⟩ := run_succ_eq_next h
    obtain ⟨hfirst, hlevel⟩ := LineRun.step hs hcycle hstep
    exact hfirst.trans (ih u (stepKeepsTheInvariant s u hs hstep) hlevel hrest)

end Sys2Proof.Machine
end

section
/-! PROOFS. Line 0 after a held reset (R332): dark, whatever the host and the draw unit do (R167, R176). -/

namespace Sys2Proof.Machine

/-! ### What the other agents leave alone -/

/-- The part of the state that the serializer and its line's start alone set, with the configuration. -/
structure SerialPart where
  cfg : Cfg
  serBusy : Bool
  serLine : BitVec 9
  serRow : Nat
  serIdx : Nat
  serBlank : Bool
  serBuf : List Byte
  emitted : List LineRecord

/-- The serializer's part of a state. -/
def serialPart (s : State) : SerialPart :=
  { cfg := s.cfg, serBusy := s.serBusy, serLine := s.serLine, serRow := s.serRow, serIdx := s.serIdx,
    serBlank := s.serBlank, serBuf := s.serBuf, emitted := s.emitted }

/-- What is dark sends zeros, however the framebuffer changes (R167). -/
theorem Emitting.congr_dark {line : BitVec 9} {row : List Byte} {before : List LineRecord} {n : Nat} {s t : State}
    (h : Emitting line row before n s) (hdark : s.serBlank = true) (ht : serialPart t = serialPart s) :
    Emitting line row before n t := by
  obtain ⟨hcfg, hbusy, hline, hrow, hidx, hblank, hbuf, hemitted⟩ := SerialPart.mk.inj ht
  refine ⟨fun hlt => ?_, fun hge => ?_⟩
  · obtain ⟨hsending, hsame, hbefore, ⟨hlen, hzeros, -⟩, hread⟩ := h.sending (hcfg ▸ hlt)
    have hsource : RowBytes row t.serBlank t.serRow t :=
      ⟨hcfg ▸ hlen, fun _ => hcfg ▸ hzeros hdark, fun hlit => by simp [hblank, hdark] at hlit⟩
    exact ⟨hbusy.trans hsending, hline.trans hsame, hemitted.trans hbefore, hsource,
      fun i hi => hbuf ▸ hread i (hidx ▸ hi)⟩
  · obtain ⟨hidle, hrecord⟩ := h.sent (hcfg ▸ hge)
    exact ⟨hbusy.trans hidle, hemitted.trans hrecord⟩

/-! ### Line 0 -/

/-- Line 0 when `n` of its cycles have ended, with its TICK past: it sends `len` zeros. -/
structure DarkRuns (len : Nat) (before : List LineRecord) (n : Nat) (s : State) : Prop where
  started : ¬TickDue s
  dark : s.serBlank = true
  emitting : Emitting 0 (List.replicate len 0) before n s

/-- Line 0 after reset in one of its cycles: before its TICK, or dark. -/
def DarkLine (len : Nat) (before : List LineRecord) (n : Nat) (s : State) : Prop :=
  (s.tickStage = .afterReset ∧ s.emitted = before) ∨ DarkRuns len before n s

section
variable {len : Nat} {before : List LineRecord} {n : Nat} {s t : State}

/-- What stays clear of the line timer and the serializer leaves the block on its line. -/
theorem DarkLine.congr (h : DarkLine len before n s) (hlt : t.lt = s.lt) (hstage : t.tickStage = s.tickStage)
    (hserial : serialPart t = serialPart s) : DarkLine len before n t := by
  obtain ⟨-, -, -, -, -, hblank, -, hemitted⟩ := SerialPart.mk.inj hserial
  rcases h with ⟨hreset, hbefore⟩ | ⟨hstarted, hdark, hemit⟩
  · exact .inl ⟨hstage.trans hreset, hemitted.trans hbefore⟩
  · have hdue : TickDue t ↔ TickDue s := by simp only [TickDue, hlt, hstage]
    exact .inr ⟨mt hdue.1 hstarted, hblank.trans hdark, hemit.congr_dark hdark hserial⟩

/-- The TICK of line 0 finds `init = 0`, so the line is dark (R163, R332). -/
theorem DarkLine.cycleTick (h : DarkLine len before s.lt s) (hs : BlockInv s) (hcycle : s.level = .cycle)
    (hlen : s.cfg.rowBytes = len) (htick : cycleTick s = .next t) : DarkRuns len before s.lt t := by
  rcases h with ⟨hreset, hbefore⟩ | hruns
  · obtain ⟨hlt, hslc, hinit⟩ := hs.start hcycle hreset
    rcases cycleTick_eq_next htick with ⟨hnone, -⟩ | ⟨-, -, -, rfl⟩
    · exact absurd ⟨hlt, by rw [hreset]; decide⟩ hnone
    · obtain ⟨⟨-, -, -, hlines, -⟩, -⟩ := hs.cfgOk
      obtain ⟨-, -, hstart, -⟩ := wf_bounds hs.cfgOk
      have hend := hStart_le_lineEnd s.cfg
      have hzero : s.slc.toNat = 0 := by rw [hslc]; rfl
      have hactive : phaseOf s.cfg 0 = .activePicture := phaseOf_zero hlines
      rw [startLine_eq, hzero]
      simp only [hactive, if_true, hinit]
      refine ⟨fun hdue => hdue.2 rfl, rfl, fun _ => ⟨by simp, hslc, hbefore, ?_, nofun⟩, fun hge => ?_⟩
      · rw [← hlen]; exact ⟨List.length_replicate, fun _ => rfl, nofun⟩
      · have hinside : ¬s.cfg.lineEnd ≤ s.lt := by omega
        exact absurd hge hinside
  · rcases cycleTick_eq_next htick with ⟨-, rfl⟩ | ⟨hlt, hstage, -, -⟩
    · exact hruns
    · exact absurd ⟨hlt, hstage⟩ hruns.started

theorem DarkLine.serialStep (h : DarkLine len before n s) (hs : BlockInv s) (hcycle : s.level = .cycle)
    (hserial : serialStep s = .next t) : DarkLine len before n t := by
  rcases serialStep_cycle hcycle hserial with rfl | ⟨hbusy, hidx, hread⟩
  · exact h
  · have hframe := serReadByte_frame hread
    rcases h with ⟨hreset, hbefore⟩ | ⟨hstarted, hdark, hemit⟩
    · rw [hframe]; exact .inl ⟨hreset, hbefore⟩
    · have hemit' := hemit.serReadByte hs hbusy hidx hread
      rw [hframe] at hemit' ⊢
      exact .inr ⟨hstarted, hdark, hemit'⟩

/-- `video` is 0 all along a dark line (R167, R176). -/
theorem Emitting.videoLevel_dark {line : BitVec 9}
    (h : Emitting line (List.replicate len 0) before s.lt s) (hs : BlockInv s) (hcycle : s.level = .cycle) (p : Phase) :
    videoLevel s.cfg p s.serBuf s.lt = false := by
  rw [h.videoLevel_eq hs hcycle, videoLevel, streamBit_zeros, Bool.and_false]

/-- The draw unit's part of the end of a cycle, the count of its age and the line timer leave the serializer alone. -/
theorem serialPart_clockEnd {c : State} (h : clockDraw s = .next c) :
    serialPart (advanceTimer (ageDraw c)) = serialPart s := by
  obtain ⟨k, -, hsteps⟩ := clockDraw_steps h
  rw [ageDraw_eq, drawSteps_frame hsteps]; rfl

/-- The end of a cycle of a dark line: `video` is 0, and the serializer is a cycle further (R175, R179). -/
theorem DarkLine.clockCycle (h : DarkLine len before s.lt s) (hs : BlockInv s) (hcycle : s.level = .cycle)
    (hlen : s.cfg.rowBytes = len) (hclock : clockCycle s = .next t) :
    t.video = false ∧ t.serBlank = true ∧ Emitting 0 (List.replicate len 0) before (s.lt + 1) t := by
  obtain ⟨a', ha', -, hvideo⟩ := clockCycle_video hclock
  obtain ⟨a, b, c, ha, hb, hc, rfl⟩ := clockCycle_eq_next hclock
  obtain rfl := Host.Outcome.next.inj (ha.symm.trans ha')
  obtain ⟨-, hlt⟩ := cycleTick_cfg_lt ha
  obtain ⟨-, hdark, hemit⟩ := h.cycleTick hs hcycle hlen ha
  have hcycleA : a.level = .cycle := (cycleTick_level ha).trans hcycle
  have hinv : BlockInv a := hs.cycleTick hcycle ha
  have hinvA : BlockInv (driveOutputs a) := hinv.congr rfl
  have hinvB : BlockInv b := hinvA.clockRead hb
  have hB : b.lt = s.lt ∧ b.serBlank = true := by rw [clockRead_frame hb]; exact ⟨hlt, hdark⟩
  obtain ⟨hltB, hdarkB⟩ := hB
  have hemitB : Emitting 0 (List.replicate len 0) before s.lt b :=
    (hemit.congr_dark (t := driveOutputs a) hdark rfl).clockRead hinvA hb
  rw [← hlt] at hemit
  rw [← hltB] at hemitB ⊢
  have hemitF := hemitB.clockFinish hinvB (clockRead_noReadDue hinvA hcycleA hb)
  have hdarkF : (Machine.clockFinish b).serBlank = true := by
    rcases clockFinish_cases b with ⟨heq, -⟩ | heq <;> rw [heq] <;> exact hdarkB
  have hend := serialPart_clockEnd hc
  exact ⟨hvideo.trans (hemit.videoLevel_dark hinv hcycleA _), (congrArg SerialPart.serBlank hend).trans hdarkF,
    hemitF.congr_dark hdarkF hend⟩

/-- A turn of the host or the draw unit reaches neither the clock, nor the serializer, nor `video`. -/
theorem hostOrDrawTurn_frame {turn : Turn} (hturn : turn = .host ∨ turn = .command ∨ turn = .draw)
    (hcycle : s.level = .cycle) (h : takeTurn turn s = .next t) :
    clockPart t = clockPart s ∧ serialPart t = serialPart s ∧ t.video = s.video := by
  have hhost : clockPart (hostStep s) = clockPart s ∧ serialPart (hostStep s) = serialPart s ∧
      (hostStep s).video = s.video := by
    rw [hostStep_frame]; exact ⟨rfl, rfl, rfl⟩
  rcases hturn with rfl | rfl | rfl
  · injection h with h; subst h; exact hhost
  · rcases commandTurn_cases h with rfl | ⟨hline, -⟩
    · exact hhost
    · simp [hcycle] at hline
  · rcases drawTurn_cases h with rfl | ⟨-, hstep⟩
    · exact ⟨rfl, rfl, rfl⟩
    · rw [drawStep_frame hstep]; exact ⟨rfl, rfl, rfl⟩

/-- The turns that end no cycle, of reset or not: those of the host and the draw unit, and those of the line. -/
theorem innerTurn_cases {turn : Turn} (hclock : turn ≠ .cycle) (hrst : turn ≠ .rst) :
    (turn = .host ∨ turn = .command ∨ turn = .draw) ∨ (turn = .serial ∨ turn = .tick) := by
  cases turn <;> simp_all

/-- A turn inside a cycle leaves the block on its dark line. -/
theorem DarkLine.innerTurn {turn : Turn} (h : DarkLine len before s.lt s) (hs : BlockInv s) (hcycle : s.level = .cycle)
    (hlen : s.cfg.rowBytes = len) (hclock : turn ≠ .cycle) (hrst : turn ≠ .rst) (hturn : takeTurn turn s = .next t) :
    DarkLine len before s.lt t := by
  rcases innerTurn_cases hclock hrst with hkind | rfl | rfl
  · obtain ⟨hpart, hserial, -⟩ := hostOrDrawTurn_frame hkind hcycle hturn
    exact h.congr (congrArg ClockPart.lt hpart) (congrArg ClockPart.tickStage hpart) hserial
  · exact h.serialStep hs hcycle hturn
  · rcases tickStep_cases hturn with ⟨hline, -⟩ | ⟨-, htick⟩
    · simp [hcycle] at hline
    · exact .inr (h.cycleTick hs hcycle hlen htick)

/-- A turn inside a cycle drives no output and ends no line (R176, R179). -/
theorem innerTurn_frame {turn : Turn} (hcycle : s.level = .cycle) (hclock : turn ≠ .cycle) (hrst : turn ≠ .rst)
    (hturn : takeTurn turn s = .next t) : t.video = s.video ∧ t.emitted = s.emitted := by
  rcases innerTurn_cases hclock hrst with hkind | hkind
  · obtain ⟨-, hserial, hvideo⟩ := hostOrDrawTurn_frame hkind hcycle hturn
    exact ⟨hvideo, congrArg SerialPart.emitted hserial⟩
  · obtain ⟨-, -, hframe⟩ := quietTurn_frame hkind hcycle hturn
    exact hframe

/-! ### The cycles of line 0 -/

/-- The block when `n` cycles have ended after reset: on its dark line until the line's last cycle ends, with `video` at 0
and, from the line's last bit on, its record of zeros emitted. -/
structure DarkProgress (cfg : Cfg) (before : List LineRecord) (n : Nat) (s : State) : Prop where
  running : n < cfg.lineCycles → DarkLine cfg.rowBytes before n s
  shown : n ≤ cfg.lineCycles → s.video = false ∧
    (cfg.lineEnd ≤ n → s.emitted = before ++ [{ line := 0, bytes := List.replicate cfg.rowBytes 0 ++ [0] }])

theorem DarkProgress.setTurns {cfg : Cfg} (h : DarkProgress cfg before n s) (ts : List Turn) :
    DarkProgress cfg before n { s with turns := ts } :=
  ⟨fun hn => (h.running hn).congr rfl rfl rfl, h.shown⟩

theorem DarkProgress.takeTurn {cfg : Cfg} {turn : Turn} (h : DarkProgress cfg before n s) (hs : BlockInv s)
    (hat : AtCycle cfg n s) (hrst : turn ≠ .rst) (hturn : takeTurn turn s = .next t) :
    DarkProgress cfg before (n + [turn].count .cycle) t := by
  obtain ⟨hatT, -⟩ := hat.takeTurn hs hrst hturn
  have hcycle := hat.level_eq
  have hlen : s.cfg.rowBytes = cfg.rowBytes := by rw [hat.cfg_eq]
  have htimer (hn : n < cfg.lineCycles) : s.lt = n := hat.timer.trans (Nat.mod_eq_of_lt hn)
  by_cases hclock : turn = .cycle
  · subst hclock
    have hend : Machine.clockCycle s = .next t := (if_pos hcycle).symm.trans hturn
    have hdone (hn : n < cfg.lineCycles) : t.video = false ∧ t.serBlank = true ∧
        Emitting 0 (List.replicate cfg.rowBytes 0) before (n + 1) t := by
      have hline := h.running hn
      rw [← htimer hn] at hline ⊢
      exact hline.clockCycle hs hcycle hlen hend
    refine ⟨fun hn => ?_, fun hn => ?_⟩
    · obtain ⟨-, hdark, hemit⟩ := hdone (Nat.lt_of_succ_lt hn)
      have hlt : t.lt = n + 1 := hatT.timer.trans (Nat.mod_eq_of_lt hn)
      exact .inr ⟨fun hdue => absurd (hlt.symm.trans hdue.1) (Nat.succ_ne_zero n), hdark, hemit⟩
    · obtain ⟨hvideo, -, hemit⟩ := hdone hn
      exact ⟨hvideo, fun hlast => (hemit.sent (hatT.cfg_eq.symm ▸ hlast)).2⟩
  · rw [List.count_singleton, if_neg (by simpa using hclock), Nat.add_zero]
    obtain ⟨hvideo, hemitted⟩ := innerTurn_frame hcycle hclock hrst hturn
    refine ⟨fun hn => ?_, fun hn => ?_⟩
    · have hline := h.running hn
      rw [← htimer hn] at hline ⊢
      exact hline.innerTurn hs hcycle hlen hclock hrst hturn
    · rw [hvideo, hemitted]
      exact h.shown hn

/-- A run of listed turns without reset. -/
theorem DarkProgress.run {cfg : Cfg} {ts : List Turn} (h : DarkProgress cfg before n s) (hs : BlockInv s)
    (hat : AtCycle cfg n s) (hturns : s.turns = ts) (hrst : .rst ∉ ts) :
    ∃ t, Host.Core.run Sys2Proof.core ts.length s = .next t ∧ DarkProgress cfg before (n + ts.count .cycle) t := by
  induction ts generalizing n s with
  | nil => exact ⟨s, rfl, h⟩
  | cons turn ts ih =>
    obtain ⟨hturn, hrest⟩ := not_or.1 (mt List.mem_cons.2 hrst)
    have hs' : BlockInv { s with turns := ts } := hs.congr rfl
    obtain ⟨u, hu⟩ := hs'.takeTurn_completes turn
    obtain ⟨hatU, hturnsU⟩ := (hat.setTurns ts).takeTurn hs' (Ne.symm hturn) hu
    have hprogress := (h.setTurns ts).takeTurn hs' (hat.setTurns ts) (Ne.symm hturn) hu
    obtain ⟨t, hrun, ht⟩ := ih hprogress (hs'.takeTurn hu) hatU hturnsU hrest
    refine ⟨t, ?_, ?_⟩
    · rw [List.length_cons, run_succ ((step_turn hs.cfgOk hturns).trans hu), hrun]
    · rwa [← List.singleton_append, List.count_append, ← Nat.add_assoc]

end

/-- Reset stands before the first cycle of line 0 (R332). -/
theorem darkProgress_resetBlock {s : State} (hwf : s.cfg.wf) : DarkProgress s.cfg s.emitted 0 (resetBlock s) := by
  obtain ⟨-, -, hstart, -⟩ := wf_bounds hwf
  have hend := hStart_le_lineEnd s.cfg
  exact ⟨fun _ => .inl ⟨rfl, rfl⟩, fun _ => ⟨rfl, fun hlast => by omega⟩⟩

/-- Settles O51: reset stands before line 0, and the turns after it bring the block to the end of cycle `n`
(`DarkProgress.run`). -/
theorem firstLineAfterResetIsDark : Obligations.FirstLineAfterResetIsDark := by
  intro s ts n hwf hcycle hturns hrst hcount hn
  let t : State := resetBlock { s with turns := ts }
  have hinv : BlockInv t := blockInv_resetBlock (s := { s with turns := ts }) hwf
  have hat : AtCycle s.cfg 0 t := atCycle_of_tickDue hinv hcycle ⟨rfl, nofun⟩
  have hstart : DarkProgress s.cfg s.emitted 0 t := darkProgress_resetBlock (s := { s with turns := ts }) hwf
  obtain ⟨u, hrun, hend⟩ := hstart.run (ts := ts) hinv hat rfl hrst
  rw [hcount, Nat.zero_add] at hend
  obtain ⟨hvideo, hrecord⟩ := hend.shown hn
  rw [← List.replicate_succ'] at hrecord
  have hstep : step s = .next t := step_turn hwf hturns
  exact ⟨u, (run_succ hstep _).trans hrun, hvideo, hrecord⟩

end Sys2Proof.Machine
end
